-- ==== Sys2Proof/Word.lean ====
section
/-!
DEFINITION. The word types of the block: bytes, bus addresses and binary64 images (00_scope.md R7, R10, R35).
-/

namespace Sys2Proof

/-- A byte: an unsigned integer 0..255, bit 0 the least significant (R10, R11). -/
abbrev Byte := BitVec 8

/-- A 7-bit bus address; the block's own is 0x48..0x4F (R5, R35). -/
abbrev BusAddr := BitVec 7

/-- A Celsius value at the codec's interface: the 64 bits of an IEEE 754 binary64 number, sign in bit 63,
biased exponent in bits 62..52, fraction in bits 51..0 (R7, R75; the bit layout is IEEE 754's, log entry 8). -/
abbrev Binary64 := BitVec 64

/-- A format bit, port F (R51). -/
abbrev Bit := BitVec 1

end Sys2Proof
end

