-- ==== Sys2Proof/Machine/Binary64.lean ====
section
/-!
DEFINITION. IEEE 754 binary64 as the codec reads and writes it (42_temperature.md R75): the exact value of a finite
number, the product with 16, and the number `M / 16`. Laws/Binary64.lean says what these integers are in terms of the
exact rational value.
-/

namespace Sys2Proof

/-- The sign bit. -/
def Binary64.sign (t : Binary64) : Bool := t[63]

/-- The biased exponent, 0..2047. -/
def Binary64.expo (t : Binary64) : Nat := (t.extractLsb' 52 11).toNat

/-- The fraction, 0..2^52-1. -/
def Binary64.frac (t : Binary64) : Nat := (t.extractLsb' 0 52).toNat

/-- Neither a NaN nor an infinity (R78). -/
def Binary64.isFinite (t : Binary64) : Bool := t.expo != 2047

/-- A NaN. -/
def Binary64.isNaN (t : Binary64) : Bool := t.expo == 2047 && t.frac != 0

/-- `+0.0` or `-0.0`. -/
def Binary64.isZero (t : Binary64) : Bool := t.expo == 0 && t.frac == 0

/-- `T < 0`: false for `-0.0` and for a NaN (R75, R78). -/
def Binary64.isNeg (t : Binary64) : Bool := t.sign && !t.isZero && !t.isNaN

/-- The integer significand of a finite number, with its hidden bit where it is normal. -/
def Binary64.signif (t : Binary64) : Nat := if t.expo = 0 then t.frac else 2 ^ 52 + t.frac

/-- The power of two the significand is scaled by is `scale - 1075`: `|T| = signif * 2^(scale - 1075)`. -/
def Binary64.scale (t : Binary64) : Nat := if t.expo = 0 then 1 else t.expo

/-- `|T|` of a finite number, exactly. -/
def Binary64.absRat (t : Binary64) : ℚ := (t.signif : ℚ) * 2 ^ ((t.scale : ℤ) - 1075)

/-- The value of a finite number, exactly; `-0.0` has the value 0 (R82). -/
def Binary64.toRat (t : Binary64) : ℚ := if t.sign then -t.absRat else t.absRat

/-- `16 * |T|` of a finite number is above the largest finite binary64 value `(2 - 2^-52) * 2^1023` (R78): the biased
exponent is above 2042. -/
def Binary64.times16Overflows (t : Binary64) : Bool := 2043 ≤ t.expo

/-- `floor(16 * |T|)` of a finite number (R78): its significand shifted to weight 1. -/
def Binary64.times16Floor (t : Binary64) : Nat :=
  if 1071 ≤ t.scale then t.signif <<< (t.scale - 1071) else t.signif >>> (1071 - t.scale)

/-- Equality of binary64 numbers: a NaN equals nothing and the two zeros are equal (R82, R84). -/
def Binary64.eqv (a b : Binary64) : Bool :=
  !a.isNaN && !b.isNaN && (a == b || (a.isZero && b.isZero))

/-- The binary64 number `± M / 16` for `M < 2^53` (R81, R82): `M = 0` with the sign set is `-0.0`. -/
def Binary64.ofSixteenths (neg : Bool) (m : Nat) : Binary64 :=
  let body := if m = 0 then 0 else (1019 + m.log2) * 2 ^ 52 + (m - 2 ^ m.log2) * 2 ^ (52 - m.log2)
  BitVec.ofNat 64 (body + if neg then 2 ^ 63 else 0)

/-- The binary64 number nearest to `± n / d`, `d > 0`; a tie goes to the even significand and a value that rounds past
the largest finite one is an infinity, as IEEE 754 rounds to nearest (30_encoding.md R66; the two corners are not the
spec's words, log entry 11). -/
def Binary64.nearest (neg : Bool) (n d : Nat) : Binary64 :=
  let k : Int := (n.log2 : Int) - (d.log2 : Int)
  let reaches : Bool := if 0 ≤ k then d <<< k.toNat ≤ n else d ≤ n <<< (-k).toNat
  let e : Int := max (if reaches then k else k - 1) (-1022)
  let q : Int := e - 52
  let num := if 0 ≤ q then n else n <<< (-q).toNat
  let den := if 0 ≤ q then d <<< q.toNat else d
  let down := num / den
  let rest := num % den
  let m := if den < 2 * rest || (2 * rest == den && down % 2 == 1) then down + 1 else down
  let body := if n = 0 then 0 else min ((e + 1022).toNat <<< 52 + m) (2047 <<< 52)
  BitVec.ofNat 64 (body + if neg then 2 ^ 63 else 0)

end Sys2Proof
end

