-- ==== Sys2Proof/Config.lean ====
section
/-!
DEFINITION. The construction parameters of the block (00_scope.md R5..R9) and the free values: what a bus agent
answers when the host has scripted no answer (10_state.md R30).
-/

namespace Sys2Proof

/-- Parameter `ENC_OVERFLOW` (R8): what TENC does with a magnitude that does not fit the format. -/
inductive EncOverflow where
  /-- keep the low bits, as the source's masks do (the default) -/
  | truncate
  /-- raise InvalidOperand -/
  | fault
  deriving DecidableEq, Repr

/-- Parameter `GETTER_COPY` (R9), OPEN: which copy the source's one getter reads. No rule of the block depends on
it; `Instr.sourceGetter` maps the source's getter onto a command with it. -/
inductive GetterCopy where
  | pending
  | active
  deriving DecidableEq, Repr

/-- The parameters a block is constructed with beside its address: the CRC table (R6, R71) and the overflow
policy (R8). They stand in the state, so that a statement about every state is one about every table and policy;
no step changes them. -/
structure Params where
  /-- `CRC8_TABLE`: 256 bytes, "one fixed argument for the life of the block" (R71) -/
  crc8Table : Vector Byte 256
  /-- `ENC_OVERFLOW` -/
  encOverflow : EncOverflow
  deriving DecidableEq, Repr

/-- Free value: does the `k`-th bus transaction fail with IOError, for a write the host scripted no answer for
(R30, 93 I9; log entry 3). -/
opaque Config.freeWriteFails : Nat → Bool

/-- Free value: does the `k`-th bus transaction fail with IOError, for a read the host scripted no answer for. -/
opaque Config.freeReadFails : Nat → Bool

/-- Free value: byte `j` of the answer to the `k`-th bus transaction, a read the host scripted no answer for. -/
opaque Config.freeReadByte : Nat → Nat → Byte

end Sys2Proof
end

