-- ==== Sys2Proof/Syntax.lean ====
section
/-!
DEFINITION. The commands of the block: one constructor per row of the opcode table (30_encoding.md R55), each
carrying the operands its row names on the operand ports (R51), and the command as the host presents it.
-/

namespace Sys2Proof

/-- The eight named fields of a configuration copy (10_state.md R22). The reserved bits and the oneShot bit have
no field id (43_config_fields.md R89). -/
inductive FieldId where
  | shutDown
  | compInt
  | faultQueue
  | conversionRate
  | pec
  | timeOut
  | resolution
  | format
  deriving DecidableEq, Repr

/-- A command of the block, decoded, with its operands. The register id of XWR and XRD is `op[1:0]`, so a
well-formed one is at most 3 (R53). -/
inductive Instr where
  /-- CRC8 DATA (41_crc.md R68) -/
  | crc8 (data : List Byte)
  /-- PECW REG, DATA (44_transactions.md R141) -/
  | pecw (reg : Byte) (data : List Byte)
  /-- PECR REG, RX (R142) -/
  | pecr (reg : Byte) (rx : List Byte)
  /-- TENC T, F (42_temperature.md R78) -/
  | tenc (t : Binary64) (f : Bit)
  /-- TDEC U, L, F (R81) -/
  | tdec (u l : Byte) (f : Bit)
  /-- FINS.SHDN B, V (43_config_fields.md R95) -/
  | finsShdn (b : Byte) (v : Int)
  /-- FINS.CMPINT B, V (43_config_fields.md R100) -/
  | finsCmpint (b : Byte) (v : Int)
  /-- FINS.FQ B, V (43_config_fields.md R105) -/
  | finsFq (b : Byte) (v : Int)
  /-- FINS.CR B, V (43_config_fields.md R110) -/
  | finsCr (b : Byte) (v : Int)
  /-- FINS.PEC B, V (43_config_fields.md R115) -/
  | finsPec (b : Byte) (v : Int)
  /-- FINS.TO B, V (43_config_fields.md R120) -/
  | finsTo (b : Byte) (v : Int)
  /-- FINS.RES B, V (43_config_fields.md R125) -/
  | finsRes (b : Byte) (v : Int)
  /-- FINS.FMT B, V (43_config_fields.md R130) -/
  | finsFmt (b : Byte) (v : Int)
  /-- FEXT.SHDN B (43_config_fields.md R96) -/
  | fextShdn (b : Byte)
  /-- FEXT.CMPINT B (43_config_fields.md R101) -/
  | fextCmpint (b : Byte)
  /-- FEXT.FQ B (43_config_fields.md R106) -/
  | fextFq (b : Byte)
  /-- FEXT.CR B (43_config_fields.md R111) -/
  | fextCr (b : Byte)
  /-- FEXT.PEC B (43_config_fields.md R116) -/
  | fextPec (b : Byte)
  /-- FEXT.TO B (43_config_fields.md R121) -/
  | fextTo (b : Byte)
  /-- FEXT.RES B (43_config_fields.md R126) -/
  | fextRes (b : Byte)
  /-- FEXT.FMT B (43_config_fields.md R131) -/
  | fextFmt (b : Byte)
  /-- SET.SHDN V (43_config_fields.md R97) -/
  | setShdn (v : Int)
  /-- SET.CMPINT V (43_config_fields.md R102) -/
  | setCmpint (v : Int)
  /-- SET.FQ V (43_config_fields.md R107) -/
  | setFq (v : Int)
  /-- SET.CR V (43_config_fields.md R112) -/
  | setCr (v : Int)
  /-- SET.PEC V (43_config_fields.md R117) -/
  | setPec (v : Int)
  /-- SET.TO V (43_config_fields.md R122) -/
  | setTo (v : Int)
  /-- SET.RES V (43_config_fields.md R127) -/
  | setRes (v : Int)
  /-- SET.FMT V (43_config_fields.md R132) -/
  | setFmt (v : Int)
  /-- GETP.SHDN (43_config_fields.md R98) -/
  | getpShdn
  /-- GETP.CMPINT (43_config_fields.md R103) -/
  | getpCmpint
  /-- GETP.FQ (43_config_fields.md R108) -/
  | getpFq
  /-- GETP.CR (43_config_fields.md R113) -/
  | getpCr
  /-- GETP.PEC (43_config_fields.md R118) -/
  | getpPec
  /-- GETP.TO (43_config_fields.md R123) -/
  | getpTo
  /-- GETP.RES (43_config_fields.md R128) -/
  | getpRes
  /-- GETP.FMT (43_config_fields.md R133) -/
  | getpFmt
  /-- GETA.SHDN (43_config_fields.md R99) -/
  | getaShdn
  /-- GETA.CMPINT (43_config_fields.md R104) -/
  | getaCmpint
  /-- GETA.FQ (43_config_fields.md R109) -/
  | getaFq
  /-- GETA.CR (43_config_fields.md R114) -/
  | getaCr
  /-- GETA.PEC (43_config_fields.md R119) -/
  | getaPec
  /-- GETA.TO (43_config_fields.md R124) -/
  | getaTo
  /-- GETA.RES (43_config_fields.md R129) -/
  | getaRes
  /-- GETA.FMT (43_config_fields.md R134) -/
  | getaFmt
  /-- RDP (R135) -/
  | rdp
  /-- RDA (R136) -/
  | rda
  /-- XWR reg, DATA (R143) -/
  | xwr (reg : Byte) (data : List Byte)
  /-- XRD reg, N (R144) -/
  | xrd (reg : Byte) (n : Nat)
  /-- COMMIT (R145) -/
  | commit
  /-- REFRESH (R146) -/
  | refresh
  /-- RDT (R147) -/
  | rdt
  /-- RDTH.HYST (R148) -/
  | rdthHyst
  /-- RDTH.TOS (R149) -/
  | rdthTos
  /-- WRTH.HYST T (R150) -/
  | wrthHyst (t : Binary64)
  /-- WRTH.TOS T (R151) -/
  | wrthTos (t : Binary64)
  deriving DecidableEq, Repr

/-- FINS.<field> of a field id, format F (R52). -/
def Instr.fins (f : FieldId) (b : Byte) (v : Int) : Instr :=
  match f with
  | .shutDown => .finsShdn b v
  | .compInt => .finsCmpint b v
  | .faultQueue => .finsFq b v
  | .conversionRate => .finsCr b v
  | .pec => .finsPec b v
  | .timeOut => .finsTo b v
  | .resolution => .finsRes b v
  | .format => .finsFmt b v

/-- FEXT.<field> of a field id, format F (R52). -/
def Instr.fext (f : FieldId) (b : Byte) : Instr :=
  match f with
  | .shutDown => .fextShdn b
  | .compInt => .fextCmpint b
  | .faultQueue => .fextFq b
  | .conversionRate => .fextCr b
  | .pec => .fextPec b
  | .timeOut => .fextTo b
  | .resolution => .fextRes b
  | .format => .fextFmt b

/-- SET.<field> of a field id, format F (R52). -/
def Instr.setField (f : FieldId) (v : Int) : Instr :=
  match f with
  | .shutDown => .setShdn v
  | .compInt => .setCmpint v
  | .faultQueue => .setFq v
  | .conversionRate => .setCr v
  | .pec => .setPec v
  | .timeOut => .setTo v
  | .resolution => .setRes v
  | .format => .setFmt v

/-- GETP.<field> of a field id, format F (R52). -/
def Instr.getp (f : FieldId) : Instr :=
  match f with
  | .shutDown => .getpShdn
  | .compInt => .getpCmpint
  | .faultQueue => .getpFq
  | .conversionRate => .getpCr
  | .pec => .getpPec
  | .timeOut => .getpTo
  | .resolution => .getpRes
  | .format => .getpFmt

/-- GETA.<field> of a field id, format F (R52). -/
def Instr.geta (f : FieldId) : Instr :=
  match f with
  | .shutDown => .getaShdn
  | .compInt => .getaCmpint
  | .faultQueue => .getaFq
  | .conversionRate => .getaCr
  | .pec => .getaPec
  | .timeOut => .getaTo
  | .resolution => .getaRes
  | .format => .getaFmt

/-- The command the source's single field getter stands for, given the OPEN parameter `GETTER_COPY` (00_scope.md
R9; 92 D9): GETP or GETA. -/
def Instr.sourceGetter (c : GetterCopy) (f : FieldId) : Instr :=
  match c with
  | .pending => .getp f
  | .active => .geta f

/-- The pseudo-instructions (30_encoding.md R67). -/
inductive Pseudo where
  | rdhyst
  | rdtos
  | wrhyst (t : Binary64)
  | wrtos (t : Binary64)
  | pecon
  | pecoff
  deriving DecidableEq, Repr

/-- Each pseudo-instruction "expands to one command and has no rule of its own" (R67). -/
def Pseudo.expand : Pseudo → Instr
  | .rdhyst => .rdthHyst
  | .rdtos => .rdthTos
  | .wrhyst t => .wrthHyst t
  | .wrtos t => .wrthTos t
  | .pecon => .setPec 1
  | .pecoff => .setPec 0

/-- The operand ports (R51). A port that a command does not name is ignored. -/
structure Ports where
  /-- DATA: finite byte list of any length -/
  data : List Byte
  /-- REG: byte -/
  reg : Byte
  /-- RX: finite byte list -/
  rx : List Byte
  /-- N: natural number -/
  n : Nat
  /-- T: Celsius value -/
  t : Binary64
  /-- F: bit -/
  f : Bit
  /-- U: upper byte -/
  u : Byte
  /-- L: lower byte -/
  l : Byte
  /-- B: byte -/
  b : Byte
  /-- V: integer of any sign and size -/
  v : Int
  deriving DecidableEq, Repr

/-- Every port at zero: what a port that a command does not name is given by the encoder. -/
def Ports.zero : Ports :=
  { data := [], reg := 0, rx := [], n := 0, t := 0, f := 0, u := 0, l := 0, b := 0, v := 0 }

/-- A command as the host presents it: "one 8-bit opcode byte `op` presented by the host, together with the
operands its row names on the operand ports" (R50). -/
structure Command where
  op : Byte
  ports : Ports
  deriving DecidableEq, Repr

end Sys2Proof
end

