-- ==== Sys2Proof/WellFormed.lean ====
section
/-!
DEFINITION. Which terms of `Instr` an encoding exists for. The ports are typed, so the register id of the format-X
commands is the only operand a term can hold and no opcode can name.
-/

namespace Sys2Proof

/-- "No opcode can name a register id above 3" (30_encoding.md R53, 20_memory.md R40): XWR and XRD take it from
`op[1:0]`. Every other operand is a whole port of its type (R51, R58). -/
def Instr.wellFormed : Instr → Bool
  | .crc8 _ => true
  | .pecw _ _ => true
  | .pecr _ _ => true
  | .tenc _ _ => true
  | .tdec _ _ _ => true
  | .finsShdn _ _ => true
  | .finsCmpint _ _ => true
  | .finsFq _ _ => true
  | .finsCr _ _ => true
  | .finsPec _ _ => true
  | .finsTo _ _ => true
  | .finsRes _ _ => true
  | .finsFmt _ _ => true
  | .fextShdn _ => true
  | .fextCmpint _ => true
  | .fextFq _ => true
  | .fextCr _ => true
  | .fextPec _ => true
  | .fextTo _ => true
  | .fextRes _ => true
  | .fextFmt _ => true
  | .setShdn _ => true
  | .setCmpint _ => true
  | .setFq _ => true
  | .setCr _ => true
  | .setPec _ => true
  | .setTo _ => true
  | .setRes _ => true
  | .setFmt _ => true
  | .getpShdn => true
  | .getpCmpint => true
  | .getpFq => true
  | .getpCr => true
  | .getpPec => true
  | .getpTo => true
  | .getpRes => true
  | .getpFmt => true
  | .getaShdn => true
  | .getaCmpint => true
  | .getaFq => true
  | .getaCr => true
  | .getaPec => true
  | .getaTo => true
  | .getaRes => true
  | .getaFmt => true
  | .rdp => true
  | .rda => true
  | .xwr reg _ => reg ≤ 3
  | .xrd reg _ => reg ≤ 3
  | .commit => true
  | .refresh => true
  | .rdt => true
  | .rdthHyst => true
  | .rdthTos => true
  | .wrthHyst _ => true
  | .wrthTos _ => true

end Sys2Proof
end

