-- ==== Sys2Proof/Decode.lean ====
section
/-!
DEFINITION. The decoder of the command byte (30_encoding.md R55..R57) and the encoder beside it.
-/

namespace Sys2Proof

/-- The fields in the order of their ids 0..7 (30_encoding.md R52, 10_state.md R22). -/
def FieldId.all : List FieldId :=
  [.shutDown, .compInt, .faultQueue, .conversionRate, .pec, .timeOut, .resolution, .format]

/-- The field id number (R52). -/
def FieldId.fid : FieldId → Nat
  | .shutDown => 0
  | .compInt => 1
  | .faultQueue => 2
  | .conversionRate => 3
  | .pec => 4
  | .timeOut => 5
  | .resolution => 6
  | .format => 7

/-- `fid = op[2:0]`, format F: all eight values are assigned (R52). -/
def fieldOfOp (op : Byte) : FieldId :=
  match (op &&& 0x07).toNat with
  | 0 => .shutDown
  | 1 => .compInt
  | 2 => .faultQueue
  | 3 => .conversionRate
  | 4 => .pec
  | 5 => .timeOut
  | 6 => .resolution
  | _ => .format

/-- `reg = op[1:0]`, format X (R53). -/
def regOfOp (op : Byte) : Byte := op &&& 0x03

/-- One row of the opcode map (R55): the opcode base and mask, and the command it names, given the opcode byte (for
`fid` and `reg`) and the ports. -/
structure OpcodeRow where
  base : Byte
  mask : Byte
  build : Byte → Ports → Instr

/-- The opcode map, row by row (R55). -/
def opcodeRows : List OpcodeRow :=
  [ ⟨0x01, 0xFF, fun _ p => .crc8 p.data⟩,
    ⟨0x08, 0xFF, fun _ p => .pecw p.reg p.data⟩,
    ⟨0x09, 0xFF, fun _ p => .pecr p.reg p.rx⟩,
    ⟨0x10, 0xFF, fun _ p => .tenc p.t p.f⟩,
    ⟨0x11, 0xFF, fun _ p => .tdec p.u p.l p.f⟩,
    ⟨0x20, 0xF8, fun op p => .fins (fieldOfOp op) p.b p.v⟩,
    ⟨0x28, 0xF8, fun op p => .fext (fieldOfOp op) p.b⟩,
    ⟨0x30, 0xF8, fun op p => .setField (fieldOfOp op) p.v⟩,
    ⟨0x38, 0xF8, fun op _ => .getp (fieldOfOp op)⟩,
    ⟨0x40, 0xF8, fun op _ => .geta (fieldOfOp op)⟩,
    ⟨0x48, 0xFF, fun _ _ => .rdp⟩,
    ⟨0x49, 0xFF, fun _ _ => .rda⟩,
    ⟨0x50, 0xFC, fun op p => .xwr (regOfOp op) p.data⟩,
    ⟨0x54, 0xFC, fun op p => .xrd (regOfOp op) p.n⟩,
    ⟨0x60, 0xFF, fun _ _ => .commit⟩,
    ⟨0x61, 0xFF, fun _ _ => .refresh⟩,
    ⟨0x70, 0xFF, fun _ _ => .rdt⟩,
    ⟨0x72, 0xFF, fun _ _ => .rdthHyst⟩,
    ⟨0x73, 0xFF, fun _ _ => .rdthTos⟩,
    ⟨0x7A, 0xFF, fun _ p => .wrthHyst p.t⟩,
    ⟨0x7B, 0xFF, fun _ p => .wrthTos p.t⟩ ]

/-- `(op & mask) == opcode_base` (R56). -/
def rowMatches (op : Byte) (row : OpcodeRow) : Bool := op &&& row.mask == row.base

/-- Why a command is not decoded. -/
inductive DecodeError where
  /-- the opcode byte matches no row of R55; the step reports it as IllegalCommand (R57, R158) -/
  | unassigned (op : Byte)
  deriving DecidableEq, Repr

/-- "A decoder takes the opcode byte `op` and finds the one row"; total on all 256 byte values (R56). -/
def decode (c : Command) : Except DecodeError Instr :=
  match opcodeRows.find? (rowMatches c.op) with
  | some row => .ok (row.build c.op c.ports)
  | none => .error (.unassigned c.op)

/-- The command an opcode-table word stands for: its low byte is the opcode (R50: the one length is 8 bits); the table
gives the operand ports no bits, so they are zero. -/
def wordCommand (nbits w : Nat) : Command := ⟨BitVec.ofNat 8 (w % 2 ^ nbits), Ports.zero⟩

/-- The instruction the decoder reads from an opcode-table word. -/
def decodeTableWord (nbits w : Nat) : Option Instr := (decode (wordCommand nbits w)).toOption

/-- The opcode byte of a command (R55): `base + fid` in format F, `base | reg` in format X. -/
def Instr.opcode : Instr → Byte
  | .crc8 _ => 0x01
  | .pecw _ _ => 0x08
  | .pecr _ _ => 0x09
  | .tenc _ _ => 0x10
  | .tdec _ _ _ => 0x11
  | .finsShdn _ _ => 0x20
  | .finsCmpint _ _ => 0x21
  | .finsFq _ _ => 0x22
  | .finsCr _ _ => 0x23
  | .finsPec _ _ => 0x24
  | .finsTo _ _ => 0x25
  | .finsRes _ _ => 0x26
  | .finsFmt _ _ => 0x27
  | .fextShdn _ => 0x28
  | .fextCmpint _ => 0x29
  | .fextFq _ => 0x2A
  | .fextCr _ => 0x2B
  | .fextPec _ => 0x2C
  | .fextTo _ => 0x2D
  | .fextRes _ => 0x2E
  | .fextFmt _ => 0x2F
  | .setShdn _ => 0x30
  | .setCmpint _ => 0x31
  | .setFq _ => 0x32
  | .setCr _ => 0x33
  | .setPec _ => 0x34
  | .setTo _ => 0x35
  | .setRes _ => 0x36
  | .setFmt _ => 0x37
  | .getpShdn => 0x38
  | .getpCmpint => 0x39
  | .getpFq => 0x3A
  | .getpCr => 0x3B
  | .getpPec => 0x3C
  | .getpTo => 0x3D
  | .getpRes => 0x3E
  | .getpFmt => 0x3F
  | .getaShdn => 0x40
  | .getaCmpint => 0x41
  | .getaFq => 0x42
  | .getaCr => 0x43
  | .getaPec => 0x44
  | .getaTo => 0x45
  | .getaRes => 0x46
  | .getaFmt => 0x47
  | .rdp => 0x48
  | .rda => 0x49
  | .xwr reg _ => 0x50 ||| (reg &&& 0x03)
  | .xrd reg _ => 0x54 ||| (reg &&& 0x03)
  | .commit => 0x60
  | .refresh => 0x61
  | .rdt => 0x70
  | .rdthHyst => 0x72
  | .rdthTos => 0x73
  | .wrthHyst _ => 0x7A
  | .wrthTos _ => 0x7B

/-- The operand ports of a command, in the operand column of R55; every other port is zero. -/
def Instr.ports : Instr → Ports
  | .crc8 data => { Ports.zero with data := data }
  | .pecw reg data => { Ports.zero with reg := reg, data := data }
  | .pecr reg rx => { Ports.zero with reg := reg, rx := rx }
  | .tenc t f => { Ports.zero with t := t, f := f }
  | .tdec u l f => { Ports.zero with u := u, l := l, f := f }
  | .finsShdn b v => { Ports.zero with b := b, v := v }
  | .finsCmpint b v => { Ports.zero with b := b, v := v }
  | .finsFq b v => { Ports.zero with b := b, v := v }
  | .finsCr b v => { Ports.zero with b := b, v := v }
  | .finsPec b v => { Ports.zero with b := b, v := v }
  | .finsTo b v => { Ports.zero with b := b, v := v }
  | .finsRes b v => { Ports.zero with b := b, v := v }
  | .finsFmt b v => { Ports.zero with b := b, v := v }
  | .fextShdn b => { Ports.zero with b := b }
  | .fextCmpint b => { Ports.zero with b := b }
  | .fextFq b => { Ports.zero with b := b }
  | .fextCr b => { Ports.zero with b := b }
  | .fextPec b => { Ports.zero with b := b }
  | .fextTo b => { Ports.zero with b := b }
  | .fextRes b => { Ports.zero with b := b }
  | .fextFmt b => { Ports.zero with b := b }
  | .setShdn v => { Ports.zero with v := v }
  | .setCmpint v => { Ports.zero with v := v }
  | .setFq v => { Ports.zero with v := v }
  | .setCr v => { Ports.zero with v := v }
  | .setPec v => { Ports.zero with v := v }
  | .setTo v => { Ports.zero with v := v }
  | .setRes v => { Ports.zero with v := v }
  | .setFmt v => { Ports.zero with v := v }
  | .xwr _ data => { Ports.zero with data := data }
  | .xrd _ n => { Ports.zero with n := n }
  | .wrthHyst t => { Ports.zero with t := t }
  | .wrthTos t => { Ports.zero with t := t }
  | .getpShdn => Ports.zero
  | .getpCmpint => Ports.zero
  | .getpFq => Ports.zero
  | .getpCr => Ports.zero
  | .getpPec => Ports.zero
  | .getpTo => Ports.zero
  | .getpRes => Ports.zero
  | .getpFmt => Ports.zero
  | .getaShdn => Ports.zero
  | .getaCmpint => Ports.zero
  | .getaFq => Ports.zero
  | .getaCr => Ports.zero
  | .getaPec => Ports.zero
  | .getaTo => Ports.zero
  | .getaRes => Ports.zero
  | .getaFmt => Ports.zero
  | .rdp => Ports.zero
  | .rda => Ports.zero
  | .commit => Ports.zero
  | .refresh => Ports.zero
  | .rdt => Ports.zero
  | .rdthHyst => Ports.zero
  | .rdthTos => Ports.zero

/-- The command a host presents for an instruction (R50, R55). -/
def encode (i : Instr) : Command := ⟨i.opcode, i.ports⟩

end Sys2Proof
end

