-- ==== Sys2Proof/Machine/Operands.lean ====
section
/-!
DEFINITION. Operand forms: the field descriptors with their insert, extract and domain check (43_config_fields.md
R87..R91) and the address forms of the bus and of the CRC header (20_memory.md R35).
-/

namespace Sys2Proof

/-- Which byte of a configuration copy a field stands in: the `k` of R87. -/
inductive ByteSel where
  | b0
  | b1
  deriving DecidableEq, Repr

/-- The byte of each field (10_state.md R22). -/
def FieldId.byteSel : FieldId → ByteSel
  | .shutDown => .b0
  | .compInt => .b0
  | .faultQueue => .b0
  | .conversionRate => .b1
  | .pec => .b1
  | .timeOut => .b1
  | .resolution => .b1
  | .format => .b1

/-- The mask of each field within its byte (R22). -/
def FieldId.mask : FieldId → Byte
  | .shutDown => 0x01
  | .compInt => 0x02
  | .faultQueue => 0x18
  | .conversionRate => 0x06
  | .pec => 0x08
  | .timeOut => 0x10
  | .resolution => 0x60
  | .format => 0x80

/-- The shift of each field's lowest bit (R22). -/
def FieldId.shift : FieldId → Nat
  | .shutDown => 0
  | .compInt => 1
  | .faultQueue => 3
  | .conversionRate => 1
  | .pec => 3
  | .timeOut => 4
  | .resolution => 5
  | .format => 7

/-- The largest value of each field: 1 for a one-bit field, 3 for a two-bit field (R22, R25, R87). -/
def FieldId.dmax : FieldId → Nat
  | .shutDown => 1
  | .compInt => 1
  | .faultQueue => 3
  | .conversionRate => 3
  | .pec => 1
  | .timeOut => 1
  | .resolution => 3
  | .format => 1

/-- The domain check `0 <= V <= dmax` (R88). -/
def FieldId.inDomain (f : FieldId) (v : Int) : Bool := decide (0 ≤ v ∧ v ≤ (f.dmax : Int))

/-- Field insert of a value in the domain: `(B & ~mask) | (V << shift)` (R90). -/
def FieldId.insert (f : FieldId) (b : Byte) (v : Int) : Byte :=
  (b &&& ~~~f.mask) ||| BitVec.ofNat 8 (v.toNat <<< f.shift)

/-- Field extract: `(B & mask) >> shift` (R91). -/
def FieldId.extract (f : FieldId) (b : Byte) : Nat := ((b &&& f.mask) >>> f.shift).toNat

/-- `DEVICE_ADDRESS = 0x48 + PART_OFFSET` (00_scope.md R5, 20_memory.md R35). -/
def deviceAddressOf (partOffset : Nat) : BusAddr := 0x48 + BitVec.ofNat 7 partOffset

/-- The header byte `DEVICE_ADDRESS << 1` (R35, R61). -/
def addrWriteByte (a : BusAddr) : Byte := a.setWidth 8 <<< 1

/-- The header byte `(DEVICE_ADDRESS << 1) + 1` (R35, R62). -/
def addrReadByte (a : BusAddr) : Byte := addrWriteByte a + 1

end Sys2Proof
end

