-- ==== Sys2Proof/Machine/State.lean ====
section
/-!
DEFINITION. The state of the block as plain data, the errors it reports, and the state after construction
(10_state.md, 60_exceptions.md R154, 70_reset_and_hazards.md R170).
-/

namespace Sys2Proof.Machine

/-- A configuration copy: two bytes, laid out by R22 (10_state.md R19). -/
structure ConfigWord where
  b0 : Byte
  b1 : Byte
  deriving DecidableEq, Repr

/-- The outcome of a `BusWrite` (00_scope.md R15). -/
inductive WriteOutcome where
  | ok
  | ioError
  deriving DecidableEq, Repr

/-- The outcome of a `BusRead` (R15): a byte list, of any length the agent gives (20_memory.md R49), or IOError. -/
inductive ReadOutcome where
  | bytes (xs : List Byte)
  | ioError
  deriving DecidableEq, Repr

/-- A bus transaction as the history records it (10_state.md R32). -/
inductive BusEvent where
  /-- `Write(a, r, data, outcome)` -/
  | write (a : BusAddr) (r : Byte) (data : List Byte) (outcome : WriteOutcome)
  /-- `Read(a, r, n, outcome)` -/
  | read (a : BusAddr) (r : Byte) (n : Nat) (outcome : ReadOutcome)
  deriving DecidableEq, Repr

/-- The operand an InvalidOperand error records (60_exceptions.md R154). -/
inductive BadOperand where
  /-- the temperature T of TENC or WRTH -/
  | temperature (t : Binary64)
  /-- the empty RX of PECR -/
  | rx (xs : List Byte)
  deriving DecidableEq, Repr

/-- The error kinds with the info each records (R154). An error is an ordinary result of a command, not a stop. -/
inductive Error where
  /-- code 1: field id and the value V (R155) -/
  | invalidFieldValue (fid : FieldId) (v : Int)
  /-- code 2: register id, expected CRC, received CRC (R156) -/
  | checksumMismatch (reg expected received : Byte)
  /-- code 3: register id (R157) -/
  | transportError (reg : Byte)
  /-- code 4: the opcode byte (R158) -/
  | illegalCommand (op : Byte)
  /-- code 5: the operand (R159) -/
  | invalidOperand (operand : BadOperand)
  /-- code 6: register id, requested and received length (R160) -/
  | busContractViolation (reg : Byte) (requested received : Nat)
  deriving DecidableEq, Repr

/-- The STATUS port (30_encoding.md R54), one name for each code of R154. -/
inductive Status where
  | success
  | invalidFieldValue
  | checksumMismatch
  | transportError
  | illegalCommand
  | invalidOperand
  | busContractViolation
  deriving DecidableEq, Repr

/-- The RESULT port (R54): "a byte, a byte list, a byte pair, a field value 0..3, a configuration image, a
temperature value, or nothing", or the info of an error and no data. -/
inductive Result where
  | nothing
  | byte (b : Byte)
  | bytes (xs : List Byte)
  | pair (upper lower : Byte)
  | value (v : Nat)
  /-- the byte list `[b0, b1]` of a whole copy -/
  | image (b0 b1 : Byte)
  | temperature (t : Binary64)
  /-- "On an error RESULT carries the error's info and no data." -/
  | info (e : Error)
  deriving DecidableEq, Repr

/-- The faults: what ends a run. -/
inductive Fault where
  /-- Raised by every command, and by a step, while `faulted` is true: "While `faulted` is true no command has a step"
  (10_state.md R33, 60_exceptions.md R160). Safe: nothing is proved of the block after the host broke its contract. -/
  | faulted
  deriving DecidableEq, Repr

/-- The refusals: what has no meaning in the model. -/
inductive Refusal where
  /-- Raised by an arm of `exec` whose command has no meaning yet; safe. No arm is left so. -/
  | notModelled (mnemonic : String)
  /-- Raised by a step when the host has presented no command: a step is a command (00_scope.md R17) and the block
  fetches none of its own (10_state.md R27). Safe: there is no step to claim anything of. -/
  | noCommand
  deriving DecidableEq, Repr

/-- The state. The first five fields and the two ports are the spec's; `params` holds the construction parameters;
the last four are the model's own, the host's and the bus agent's side of the interface (INVENTORY.md). -/
structure State where
  /-- the pending copy (R19, R20) -/
  pending : ConfigWord
  /-- the active copy (R19, R21) -/
  active : ConfigWord
  /-- the fault mark (R33) -/
  faulted : Bool
  /-- the event history, oldest first (R32) -/
  history : List BusEvent
  /-- `DEVICE_ADDRESS`, 7 bits, constant (R5) -/
  deviceAddress : BusAddr
  /-- the STATUS port as the last command left it (R54) -/
  status : Status
  /-- the RESULT port as the last command left it (R54) -/
  result : Result
  /-- construction parameters (R6, R8), constant -/
  params : Params
  /-- the commands the host presents, the next one first (R17, R27) -/
  commands : List Command
  /-- the outcomes the bus agent is scripted to give to the coming writes, in order (R30) -/
  writeAnswers : List WriteOutcome
  /-- the outcomes the bus agent is scripted to give to the coming reads, in order (R30) -/
  readAnswers : List ReadOutcome
  /-- how many bus transactions have been performed: what an unscripted answer, a free value, is drawn by -/
  busDraws : Nat
  deriving DecidableEq, Repr

/-- The power-on value of both copies, 0x0040 (10_state.md R26). -/
def powerOnConfig : ConfigWord := { b0 := 0x00, b1 := 0x40 }

/-- The default parameters: the table of R70 and `TRUNCATE` (R6, R8). -/
def defaultParams : Params := { crc8Table := defaultCrcTable, encOverflow := .truncate }

/-- The block right after construction with a `PART_OFFSET` and parameters (70_reset_and_hazards.md R170):
`pending = active = 0x0040`, not faulted, an empty history, and no bus transaction. The two ports hold
success and nothing (log entry 6). -/
def State.built (partOffset : Nat) (params : Params) : State :=
  { pending := powerOnConfig
    active := powerOnConfig
    faulted := false
    history := []
    deviceAddress := deviceAddressOf partOffset
    status := .success
    result := .nothing
    params := params
    commands := []
    writeAnswers := []
    readAnswers := []
    busDraws := 0 }

/-- Construction: "A construction with `PART_OFFSET` outside 0..7 is refused (no block exists)" (00_scope.md R5). -/
def State.construct (partOffset : Nat) (params : Params) : Option State :=
  if partOffset ≤ 7 then some (State.built partOffset params) else none

/-- The block right after construction with the spec's default parameters and `PART_OFFSET = 0` (log entry 7). -/
def State.reset : State := State.built 0 defaultParams

end Sys2Proof.Machine
end

