-- ==== Sys2Proof/Machine/Codec.lean ====
section
/-!
DEFINITION. The temperature codec, a pure function of its operands and of `ENC_OVERFLOW` (42_temperature.md R75..R86):
sign and magnitude, not two's complement (R76).
-/

namespace Sys2Proof.Machine

/-- The precision selector: `p = 3` if `F = 1`, else `p = 4` (R77). -/
def precision (f : Bit) : Nat := if f = 1 then 3 else 4

/-- The largest magnitude that fits the format, `2^(15 - p) - 1` (R79). -/
def maxMagnitude (f : Bit) : Nat := 2 ^ (15 - precision f) - 1

/-- The byte pair of a sign and a magnitude `d` in sixteenths, by the source's masks: any `d`, of which the masks keep
`d mod 2^(15-p)` (R78, R79). -/
def magnitudePair (f : Bit) (neg : Bool) (d : Nat) : Byte × Byte :=
  let upper := BitVec.ofNat 8 ((d >>> (8 - precision f)) &&& 0x7F)
  let lower := BitVec.ofNat 8 ((d <<< precision f) &&& 0xFF)
  (if neg then upper ||| 0x80 else upper, lower)

/-- TENC's operand is refused: a NaN, an infinity, a 16-fold magnitude that is not a finite binary64 value (R80), or,
under `ENC_OVERFLOW = FAULT`, a magnitude that does not fit the format (R79). -/
def tempRejected (overflow : EncOverflow) (t : Binary64) (f : Bit) : Bool :=
  !t.isFinite || t.times16Overflows || (decide (t.times16Floor > maxMagnitude f) && overflow == .fault)

/-- Encode a Celsius value into the pair `(upper, lower)`, or raise InvalidOperand (R78). -/
def tempEncode (overflow : EncOverflow) (t : Binary64) (f : Bit) : Except Error (Byte × Byte) :=
  if tempRejected overflow t f then .error (.invalidOperand (.temperature t))
  else .ok (magnitudePair f t.isNeg t.times16Floor)

/-- The magnitude in sixteenths of a byte pair: `((U & 0x7F) << (8 - p)) + (L >> p)` (R81). -/
def pairMagnitude (u l : Byte) (f : Bit) : Nat :=
  ((u &&& 0x7F).toNat <<< (8 - precision f)) + (l.toNat >>> precision f)

/-- Decode a byte pair into a Celsius value: `M / 16`, negated if bit 7 of `U` is set, so `-0.0` for a negative zero
(R81, R82). -/
def tempDecode (u l : Byte) (f : Bit) : Binary64 :=
  Binary64.ofSixteenths (u[7]) (pairMagnitude u l f)

end Sys2Proof.Machine
end

