-- ==== Sys2Proof/Machine/Flags.lean ====
section
/-!
DEFINITION. The block has no flags; two bits of `active` change how later commands behave (10_state.md R28). They are
read here, and nowhere else.
-/

namespace Sys2Proof.Machine

/-- The active PEC bit, `active.b1` bit 3, which selects CRC framing (44_transactions.md R138). -/
def State.pecOn (s : State) : Bool := FieldId.extract .pec s.active.b1 == 1

/-- The active format bit, `active.b1` bit 7, the F the register commands give the codec (42_temperature.md R85). -/
def State.activeFormat (s : State) : Bit := BitVec.ofNat 1 (FieldId.extract .format s.active.b1)

end Sys2Proof.Machine
end

