-- ==== Sys2Proof/Machine/Ops.lean ====
section
/-!
DEFINITION. The operations the meanings share: presenting a command, ending it with a result or with an error
(60_exceptions.md), the bus transactions and their framing (44_transactions.md), and the configuration copies.
-/

namespace Sys2Proof.Machine

/-! ### Ending a command -/

/-- The STATUS code number (R154). -/
def Status.code : Status → Nat
  | .success => 0
  | .invalidFieldValue => 1
  | .checksumMismatch => 2
  | .transportError => 3
  | .illegalCommand => 4
  | .invalidOperand => 5
  | .busContractViolation => 6

/-- The STATUS of each error kind (R154). -/
def Error.status : Error → Status
  | .invalidFieldValue _ _ => .invalidFieldValue
  | .checksumMismatch _ _ _ => .checksumMismatch
  | .transportError _ => .transportError
  | .illegalCommand _ => .illegalCommand
  | .invalidOperand _ => .invalidOperand
  | .busContractViolation _ _ _ => .busContractViolation

/-- Only BusContractViolation is a fault: "It sets `faulted`, which no command clears" (R160); "The source's three
error kinds do not set it" (10_state.md R33). -/
def Error.isFault : Error → Bool
  | .invalidFieldValue _ _ => false
  | .checksumMismatch _ _ _ => false
  | .transportError _ => false
  | .illegalCommand _ => false
  | .invalidOperand _ => false
  | .busContractViolation _ _ _ => true

/-- `raise E(info)` (00_scope.md R16), error delivery (60_exceptions.md R162): the command ends, STATUS holds the code
and RESULT the info, nothing is saved and no mode changes. This is the block's whole exception entry; there is no
return from it, "an error is a result" (R163). -/
def raise (e : Error) (s : State) : State :=
  { s with status := e.status, result := .info e, faulted := s.faulted || e.isFault }

/-- `return v` (R16): the command ends with success and the result `v` (30_encoding.md R54). -/
def finish (r : Result) (s : State) : State :=
  { s with status := .success, result := r }

/-- End a command with what its pure part gave: a result, or an error. -/
def answer (q : Except Error Result) (s : State) : State :=
  match q with
  | .ok r => finish r s
  | .error e => raise e s

/-- A command of the block: "While `faulted` is true no command has a step" (10_state.md R33); otherwise it is one
atomic step, in one mode in which every command is allowed (R17, 60_exceptions.md R165). -/
def command (body : State → State) (s : State) : Host.Outcome State Fault Refusal :=
  if s.faulted then .fault .faulted else .next (body s)

/-- IllegalCommand (R158): "No operand is read, no state changes, no bus transaction happens." -/
def illegal (e : DecodeError) (s : State) : Host.Outcome State Fault Refusal :=
  match e with
  | .unassigned op => command (raise (.illegalCommand op)) s

/-! ### The command the host presents -/

/-- The command the host presents next, and the state once the block has taken it (10_state.md R27). -/
def fetch (s : State) : Option (Command × State) :=
  match s.commands with
  | [] => none
  | c :: rest => some (c, { s with commands := rest })

/-- The host presents one more command, after those it has presented already. -/
def State.present (c : Command) (s : State) : State := { s with commands := s.commands ++ [c] }

/-! ### The bus agent (10_state.md R30) -/

/-- The outcome of the coming write: the agent's scripted one, else a free value. -/
def State.writeOutcome (s : State) : WriteOutcome :=
  match s.writeAnswers with
  | o :: _ => o
  | [] => if Config.freeWriteFails s.busDraws then .ioError else .ok

/-- The outcome of the coming read of `n` bytes: the agent's scripted one, of whatever length, else a free value that
keeps the length contract of 20_memory.md R49. -/
def State.readOutcome (n : Nat) (s : State) : ReadOutcome :=
  match s.readAnswers with
  | o :: _ => o
  | [] =>
    if Config.freeReadFails s.busDraws then .ioError
    else .bytes ((List.range n).map (Config.freeReadByte s.busDraws))

/-- `BusWrite(DEVICE_ADDRESS, r, data)` (R15): one transaction, one history event whether it succeeds or fails
(10_state.md R32). -/
def busWrite (r : Byte) (data : List Byte) (s : State) : WriteOutcome × State :=
  (s.writeOutcome,
    { s with
      history := s.history ++ [.write s.deviceAddress r data s.writeOutcome]
      writeAnswers := s.writeAnswers.tail
      busDraws := s.busDraws + 1 })

/-- `BusRead(DEVICE_ADDRESS, r, n)` (R15): one transaction, one history event. -/
def busRead (r : Byte) (n : Nat) (s : State) : ReadOutcome × State :=
  (s.readOutcome n,
    { s with
      history := s.history ++ [.read s.deviceAddress r n (s.readOutcome n)]
      readAnswers := s.readAnswers.tail
      busDraws := s.busDraws + 1 })

/-! ### PEC framing (44_transactions.md R139, R140) -/

/-- The CRC of a write frame: over `[A << 1, reg] ++ data` (R61, R139). -/
def writeCrc (s : State) (reg : Byte) (data : List Byte) : Byte :=
  crc8 s.params.crc8Table ([addrWriteByte s.deviceAddress, reg] ++ data)

/-- The CRC of a read frame: over `[A << 1, reg, (A << 1) + 1] ++ data` (R62, R140). -/
def readCrc (s : State) (reg : Byte) (data : List Byte) : Byte :=
  crc8 s.params.crc8Table ([addrWriteByte s.deviceAddress, reg, addrReadByte s.deviceAddress] ++ data)

/-- `pecFrame(reg, data) = data ++ [crc8([A << 1, reg] ++ data)]` (R139). -/
def pecFrame (s : State) (reg : Byte) (data : List Byte) : List Byte := data ++ [writeCrc s reg data]

/-- `pecCheck(reg, rx)` for `len(rx) >= 1` (R140): the data part, or ChecksumMismatch and nothing of `rx`. -/
def pecCheck (s : State) (reg : Byte) (rx : List Byte) : Except Error (List Byte) :=
  let n := rx.length - 1
  let data := rx.take n
  let c := readCrc s reg data
  let received := rx.getD n 0
  if c = received then .ok data else .error (.checksumMismatch reg c received)

/-! ### Register transactions (R143, R144) -/

/-- `writeRegister(reg, data)` (R143): framed if the active PEC bit is set, one `BusWrite`. -/
def writeRegister (reg : Byte) (data : List Byte) (s : State) : Except Error Unit × State :=
  let wire := if s.pecOn then pecFrame s reg data else data
  let q := busWrite reg wire s
  match q.1 with
  | .ok => (.ok (), q.2)
  | .ioError => (.error (.transportError reg), q.2)

/-- What the block does with the answer to a read of `m` wire bytes: TransportError, then the length, then the CRC
(R144, 60_exceptions.md R161). -/
def checkAnswer (s : State) (reg : Byte) (m : Nat) (o : ReadOutcome) : Except Error (List Byte) :=
  match o with
  | .ioError => .error (.transportError reg)
  | .bytes rx =>
    if rx.length = m then
      if s.pecOn then pecCheck s reg rx else .ok rx
    else .error (.busContractViolation reg m rx.length)

/-- `readRegister(reg, n)` (R144): one `BusRead` of `n` bytes, of `n + 1` if the active PEC bit is set. -/
def readRegister (reg : Byte) (n : Nat) (s : State) : Except Error (List Byte) × State :=
  let m := if s.pecOn then n + 1 else n
  let q := busRead reg m s
  (checkAnswer s reg m q.1, q.2)

/-- A whole command that writes a device register and returns nothing (R143). -/
def writeCommand (reg : Byte) (data : List Byte) (s : State) : State :=
  let q := writeRegister reg data s
  answer (q.1.map fun _ => .nothing) q.2

/-- A whole command that reads a device register and returns the data bytes (R144). -/
def readCommand (reg : Byte) (n : Nat) (s : State) : State :=
  let q := readRegister reg n s
  answer (q.1.map .bytes) q.2

/-- A whole command that reads a temperature-format register and decodes it with the active format; the first byte is
the upper one (R147, 20_memory.md R37). -/
def readTemperature (reg : Byte) (s : State) : State :=
  let q := readRegister reg 2 s
  answer (q.1.map fun rx => .temperature (tempDecode (rx.getD 0 0) (rx.getD 1 0) s.activeFormat)) q.2

/-- A whole command that encodes a Celsius value with the active format and writes it, upper byte first; an operand
TENC refuses is reported "before any bus transaction" (R150). -/
def writeTemperature (reg : Byte) (t : Binary64) (s : State) : State :=
  match tempEncode s.params.encOverflow t s.activeFormat with
  | .ok p => writeCommand reg [p.1, p.2] s
  | .error e => raise e s

/-! ### The configuration copies -/

/-- The byte of a copy a field stands in (43_config_fields.md R87). -/
def ConfigWord.byteOf (c : ConfigWord) (f : FieldId) : Byte :=
  match f.byteSel with
  | .b0 => c.b0
  | .b1 => c.b1

/-- `X.bk <- v` (00_scope.md R14). -/
def ConfigWord.withByteOf (c : ConfigWord) (f : FieldId) (v : Byte) : ConfigWord :=
  match f.byteSel with
  | .b0 => { c with b0 := v }
  | .b1 => { c with b1 := v }

/-- The 16-bit notation `(b0 << 8) | b1` (10_state.md R19, 30_encoding.md R60). -/
def ConfigWord.word (c : ConfigWord) : BitVec 16 := c.b0 ++ c.b1

/-- The image of a copy on the bus, byte0 first (20_memory.md R36). -/
def ConfigWord.image (c : ConfigWord) : List Byte := [c.b0, c.b1]

/-- FINS, generic form: the domain check, then the insert (43_config_fields.md R90). -/
def fieldInsert (f : FieldId) (b : Byte) (v : Int) : Except Error Byte :=
  if f.inDomain v then .ok (f.insert b v) else .error (.invalidFieldValue f v)

/-- FINS.<field> as a command (R90). -/
def finsCommand (f : FieldId) (b : Byte) (v : Int) (s : State) : State :=
  answer ((fieldInsert f b v).map .byte) s

/-- FEXT.<field> as a command (R91). -/
def fextCommand (f : FieldId) (b : Byte) (s : State) : State := finish (.value (f.extract b)) s

/-- SET.<field>, generic form (R92): the field's byte of `pending` is replaced by FINS of it, and nothing else changes;
a value outside the domain raises and changes neither copy (R155). -/
def setCommand (f : FieldId) (v : Int) (s : State) : State :=
  match fieldInsert f (s.pending.byteOf f) v with
  | .ok b => finish .nothing { s with pending := s.pending.withByteOf f b }
  | .error e => raise e s

/-- GETP.<field>, generic form (R93). -/
def getpCommand (f : FieldId) (s : State) : State := finish (.value (f.extract (s.pending.byteOf f))) s

/-- GETA.<field>, generic form (R94). -/
def getaCommand (f : FieldId) (s : State) : State := finish (.value (f.extract (s.active.byteOf f))) s

end Sys2Proof.Machine
end

