-- ==== Sys2Proof/Machine/Checksum.lean ====
section
/-!
DEFINITION. The meaning of CRC8 (41_crc.md).
-/

namespace Sys2Proof.Machine

/-- CRC8 DATA (R68): the CRC of DATA; no input is invalid and no state is written. -/
def execCrc8 (data : List Byte) (s : State) : Host.Outcome State Fault Refusal :=
  command (finish (.byte (crc8 s.params.crc8Table data))) s

end Sys2Proof.Machine
end

