-- ==== Sys2Proof/Machine/ConfigFields.lean ====
section
/-!
DEFINITION. The meanings of the configuration field commands (43_config_fields.md): one definition per command over the
generic forms of R90..R94, and SET.PEC's special case (R117).
-/

namespace Sys2Proof.Machine

/-- What SET.PEC does beside the generic setter (R117): when V = 1, `active.b1 <- active.b1 | 0x08`; "only bit 3 of
active.b1 changes". -/
def enableActivePec (v : Int) (s : State) : State :=
  if v = 1 then { s with active := { s.active with b1 := s.active.b1 ||| 0x08 } } else s

/-- What SET.PEC does (R117): the generic setter, and on enable also `active`; a V outside the domain changes neither
copy, since it is not 1. -/
def setPecCommand (v : Int) (s : State) : State := setCommand .pec v (enableActivePec v s)

/-- FINS.SHDN (R95): insert V into B. -/
def execFinsShdn (b : Byte) (v : Int) (s : State) : Host.Outcome State Fault Refusal :=
  command (finsCommand .shutDown b v) s

/-- FINS.CMPINT (R100): insert V into B. -/
def execFinsCmpint (b : Byte) (v : Int) (s : State) : Host.Outcome State Fault Refusal :=
  command (finsCommand .compInt b v) s

/-- FINS.FQ (R105): insert V into B. -/
def execFinsFq (b : Byte) (v : Int) (s : State) : Host.Outcome State Fault Refusal :=
  command (finsCommand .faultQueue b v) s

/-- FINS.CR (R110): insert V into B. -/
def execFinsCr (b : Byte) (v : Int) (s : State) : Host.Outcome State Fault Refusal :=
  command (finsCommand .conversionRate b v) s

/-- FINS.PEC (R115): insert V into B. -/
def execFinsPec (b : Byte) (v : Int) (s : State) : Host.Outcome State Fault Refusal :=
  command (finsCommand .pec b v) s

/-- FINS.TO (R120): insert V into B. -/
def execFinsTo (b : Byte) (v : Int) (s : State) : Host.Outcome State Fault Refusal :=
  command (finsCommand .timeOut b v) s

/-- FINS.RES (R125): insert V into B. -/
def execFinsRes (b : Byte) (v : Int) (s : State) : Host.Outcome State Fault Refusal :=
  command (finsCommand .resolution b v) s

/-- FINS.FMT (R130): insert V into B. -/
def execFinsFmt (b : Byte) (v : Int) (s : State) : Host.Outcome State Fault Refusal :=
  command (finsCommand .format b v) s

/-- FEXT.SHDN (R96): the value in B. -/
def execFextShdn (b : Byte) (s : State) : Host.Outcome State Fault Refusal :=
  command (fextCommand .shutDown b) s

/-- FEXT.CMPINT (R101): the value in B. -/
def execFextCmpint (b : Byte) (s : State) : Host.Outcome State Fault Refusal :=
  command (fextCommand .compInt b) s

/-- FEXT.FQ (R106): the value in B. -/
def execFextFq (b : Byte) (s : State) : Host.Outcome State Fault Refusal :=
  command (fextCommand .faultQueue b) s

/-- FEXT.CR (R111): the value in B. -/
def execFextCr (b : Byte) (s : State) : Host.Outcome State Fault Refusal :=
  command (fextCommand .conversionRate b) s

/-- FEXT.PEC (R116): the value in B. -/
def execFextPec (b : Byte) (s : State) : Host.Outcome State Fault Refusal :=
  command (fextCommand .pec b) s

/-- FEXT.TO (R121): the value in B. -/
def execFextTo (b : Byte) (s : State) : Host.Outcome State Fault Refusal :=
  command (fextCommand .timeOut b) s

/-- FEXT.RES (R126): the value in B. -/
def execFextRes (b : Byte) (s : State) : Host.Outcome State Fault Refusal :=
  command (fextCommand .resolution b) s

/-- FEXT.FMT (R131): the value in B. -/
def execFextFmt (b : Byte) (s : State) : Host.Outcome State Fault Refusal :=
  command (fextCommand .format b) s

/-- SET.SHDN (R97): set the field of `pending`. -/
def execSetShdn (v : Int) (s : State) : Host.Outcome State Fault Refusal :=
  command (setCommand .shutDown v) s

/-- SET.CMPINT (R102): set the field of `pending`. -/
def execSetCmpint (v : Int) (s : State) : Host.Outcome State Fault Refusal :=
  command (setCommand .compInt v) s

/-- SET.FQ (R107): set the field of `pending`. -/
def execSetFq (v : Int) (s : State) : Host.Outcome State Fault Refusal :=
  command (setCommand .faultQueue v) s

/-- SET.CR (R112): set the field of `pending`. -/
def execSetCr (v : Int) (s : State) : Host.Outcome State Fault Refusal :=
  command (setCommand .conversionRate v) s

/-- SET.PEC (R117): `pending`, and when V = 1 also bit 3 of `active.b1`; neither copy changes if V is outside the domain. -/
def execSetPec (v : Int) (s : State) : Host.Outcome State Fault Refusal :=
  command (setPecCommand v) s

/-- SET.TO (R122): set the field of `pending`. -/
def execSetTo (v : Int) (s : State) : Host.Outcome State Fault Refusal :=
  command (setCommand .timeOut v) s

/-- SET.RES (R127): set the field of `pending`. -/
def execSetRes (v : Int) (s : State) : Host.Outcome State Fault Refusal :=
  command (setCommand .resolution v) s

/-- SET.FMT (R132): set the field of `pending`. -/
def execSetFmt (v : Int) (s : State) : Host.Outcome State Fault Refusal :=
  command (setCommand .format v) s

/-- GETP.SHDN (R98): the field of `pending`. -/
def execGetpShdn (s : State) : Host.Outcome State Fault Refusal :=
  command (getpCommand .shutDown) s

/-- GETP.CMPINT (R103): the field of `pending`. -/
def execGetpCmpint (s : State) : Host.Outcome State Fault Refusal :=
  command (getpCommand .compInt) s

/-- GETP.FQ (R108): the field of `pending`. -/
def execGetpFq (s : State) : Host.Outcome State Fault Refusal :=
  command (getpCommand .faultQueue) s

/-- GETP.CR (R113): the field of `pending`. -/
def execGetpCr (s : State) : Host.Outcome State Fault Refusal :=
  command (getpCommand .conversionRate) s

/-- GETP.PEC (R118): the field of `pending`. -/
def execGetpPec (s : State) : Host.Outcome State Fault Refusal :=
  command (getpCommand .pec) s

/-- GETP.TO (R123): the field of `pending`. -/
def execGetpTo (s : State) : Host.Outcome State Fault Refusal :=
  command (getpCommand .timeOut) s

/-- GETP.RES (R128): the field of `pending`. -/
def execGetpRes (s : State) : Host.Outcome State Fault Refusal :=
  command (getpCommand .resolution) s

/-- GETP.FMT (R133): the field of `pending`. -/
def execGetpFmt (s : State) : Host.Outcome State Fault Refusal :=
  command (getpCommand .format) s

/-- GETA.SHDN (R99): the field of `active`. -/
def execGetaShdn (s : State) : Host.Outcome State Fault Refusal :=
  command (getaCommand .shutDown) s

/-- GETA.CMPINT (R104): the field of `active`. -/
def execGetaCmpint (s : State) : Host.Outcome State Fault Refusal :=
  command (getaCommand .compInt) s

/-- GETA.FQ (R109): the field of `active`. -/
def execGetaFq (s : State) : Host.Outcome State Fault Refusal :=
  command (getaCommand .faultQueue) s

/-- GETA.CR (R114): the field of `active`. -/
def execGetaCr (s : State) : Host.Outcome State Fault Refusal :=
  command (getaCommand .conversionRate) s

/-- GETA.PEC (R119): the field of `active`. -/
def execGetaPec (s : State) : Host.Outcome State Fault Refusal :=
  command (getaCommand .pec) s

/-- GETA.TO (R124): the field of `active`. -/
def execGetaTo (s : State) : Host.Outcome State Fault Refusal :=
  command (getaCommand .timeOut) s

/-- GETA.RES (R129): the field of `active`. -/
def execGetaRes (s : State) : Host.Outcome State Fault Refusal :=
  command (getaCommand .resolution) s

/-- GETA.FMT (R134): the field of `active`. -/
def execGetaFmt (s : State) : Host.Outcome State Fault Refusal :=
  command (getaCommand .format) s

/-- RDP (R135): the whole `pending` copy, reserved and oneShot bits included. -/
def execRdp (s : State) : Host.Outcome State Fault Refusal :=
  command (finish (.image s.pending.b0 s.pending.b1)) s

/-- RDA (R136): the whole `active` copy. -/
def execRda (s : State) : Host.Outcome State Fault Refusal :=
  command (finish (.image s.active.b0 s.active.b1)) s

end Sys2Proof.Machine
end

