-- ==== Sys2Proof/Machine/Temperature.lean ====
section
/-!
DEFINITION. The meanings of TENC and TDEC (42_temperature.md). Both read no state but the parameters (R85).
-/

namespace Sys2Proof.Machine

/-- TENC T, F (R78): the pair `(upper, lower)`, or InvalidOperand(T). -/
def execTenc (t : Binary64) (f : Bit) (s : State) : Host.Outcome State Fault Refusal :=
  command (answer ((tempEncode s.params.encOverflow t f).map fun p => .pair p.1 p.2)) s

/-- TDEC U, L, F (R81): every byte pair and format decodes. -/
def execTdec (u l : Byte) (f : Bit) (s : State) : Host.Outcome State Fault Refusal :=
  command (finish (.temperature (tempDecode u l f))) s

end Sys2Proof.Machine
end

