-- ==== Sys2Proof/Machine/Transactions.lean ====
section
/-!
DEFINITION. The meanings of the framing and register commands (44_transactions.md).
-/

namespace Sys2Proof.Machine

/-- PECW REG, DATA (R141): the write frame, whatever the PEC bit, with no bus transaction. -/
def execPecw (reg : Byte) (data : List Byte) (s : State) : Host.Outcome State Fault Refusal :=
  command (finish (.bytes (pecFrame s reg data))) s

/-- PECR REG, RX (R142): InvalidOperand for an empty RX, else the read check, with no bus transaction. -/
def execPecr (reg : Byte) (rx : List Byte) (s : State) : Host.Outcome State Fault Refusal :=
  command (answer (if rx = [] then .error (.invalidOperand (.rx rx)) else (pecCheck s reg rx).map .bytes)) s

/-- XWR reg, DATA (R143): the copies are not changed, also for register 1 (70_reset_and_hazards.md R177). -/
def execXwr (reg : Byte) (data : List Byte) (s : State) : Host.Outcome State Fault Refusal :=
  command (writeCommand reg data) s

/-- XRD reg, N (R144): the N data bytes. -/
def execXrd (reg : Byte) (n : Nat) (s : State) : Host.Outcome State Fault Refusal :=
  command (readCommand reg n) s

/-- What COMMIT does (R145): `pending` is written to register 1, framed by `active`'s PEC bit before the update; then,
only if the write did not raise, `active <- pending`. -/
def commitCommand (s : State) : State :=
  let q := writeRegister 1 s.pending.image s
  match q.1 with
  | .ok _ => finish .nothing { q.2 with active := q.2.pending }
  | .error e => raise e q.2

/-- COMMIT (R145). -/
def execCommit (s : State) : Host.Outcome State Fault Refusal := command commitCommand s

/-- What REFRESH does (R146): register 1 is read into `active`, all 16 bits verbatim, only if the read did not raise;
`pending` is never changed. -/
def refreshCommand (s : State) : State :=
  let q := readRegister 1 2 s
  match q.1 with
  | .ok rx => finish .nothing { q.2 with active := { b0 := rx.getD 0 0, b1 := rx.getD 1 0 } }
  | .error e => raise e q.2

/-- REFRESH (R146). -/
def execRefresh (s : State) : Host.Outcome State Fault Refusal := command refreshCommand s

/-- RDT (R147): the temperature register, id 0. -/
def execRdt (s : State) : Host.Outcome State Fault Refusal := command (readTemperature 0) s

/-- RDTH.HYST (R148): the hysteresis threshold register, id 2. -/
def execRdthHyst (s : State) : Host.Outcome State Fault Refusal := command (readTemperature 2) s

/-- RDTH.TOS (R149): the over-temperature threshold register, id 3. -/
def execRdthTos (s : State) : Host.Outcome State Fault Refusal := command (readTemperature 3) s

/-- WRTH.HYST T (R150): the hysteresis threshold register, id 2. -/
def execWrthHyst (t : Binary64) (s : State) : Host.Outcome State Fault Refusal := command (writeTemperature 2 t) s

/-- WRTH.TOS T (R151): the over-temperature threshold register, id 3. -/
def execWrthTos (t : Binary64) (s : State) : Host.Outcome State Fault Refusal := command (writeTemperature 3 t) s

end Sys2Proof.Machine
end

