-- ==== Sys2Proof/Machine/Dispatch.lean ====
section
/-! DEFINITION. The dispatch: one arm per command, each one call of its meaning. -/

namespace Sys2Proof.Machine

def exec (i : Instr) (s : State) : Host.Outcome State Fault Refusal :=
  match i with
  | .crc8 data => Sys2Proof.Machine.execCrc8 data s
  | .pecw reg data => Sys2Proof.Machine.execPecw reg data s
  | .pecr reg rx => Sys2Proof.Machine.execPecr reg rx s
  | .tenc t f => Sys2Proof.Machine.execTenc t f s
  | .tdec u l f => Sys2Proof.Machine.execTdec u l f s
  | .finsShdn b v => Sys2Proof.Machine.execFinsShdn b v s
  | .finsCmpint b v => Sys2Proof.Machine.execFinsCmpint b v s
  | .finsFq b v => Sys2Proof.Machine.execFinsFq b v s
  | .finsCr b v => Sys2Proof.Machine.execFinsCr b v s
  | .finsPec b v => Sys2Proof.Machine.execFinsPec b v s
  | .finsTo b v => Sys2Proof.Machine.execFinsTo b v s
  | .finsRes b v => Sys2Proof.Machine.execFinsRes b v s
  | .finsFmt b v => Sys2Proof.Machine.execFinsFmt b v s
  | .fextShdn b => Sys2Proof.Machine.execFextShdn b s
  | .fextCmpint b => Sys2Proof.Machine.execFextCmpint b s
  | .fextFq b => Sys2Proof.Machine.execFextFq b s
  | .fextCr b => Sys2Proof.Machine.execFextCr b s
  | .fextPec b => Sys2Proof.Machine.execFextPec b s
  | .fextTo b => Sys2Proof.Machine.execFextTo b s
  | .fextRes b => Sys2Proof.Machine.execFextRes b s
  | .fextFmt b => Sys2Proof.Machine.execFextFmt b s
  | .setShdn v => Sys2Proof.Machine.execSetShdn v s
  | .setCmpint v => Sys2Proof.Machine.execSetCmpint v s
  | .setFq v => Sys2Proof.Machine.execSetFq v s
  | .setCr v => Sys2Proof.Machine.execSetCr v s
  | .setPec v => Sys2Proof.Machine.execSetPec v s
  | .setTo v => Sys2Proof.Machine.execSetTo v s
  | .setRes v => Sys2Proof.Machine.execSetRes v s
  | .setFmt v => Sys2Proof.Machine.execSetFmt v s
  | .getpShdn => Sys2Proof.Machine.execGetpShdn s
  | .getpCmpint => Sys2Proof.Machine.execGetpCmpint s
  | .getpFq => Sys2Proof.Machine.execGetpFq s
  | .getpCr => Sys2Proof.Machine.execGetpCr s
  | .getpPec => Sys2Proof.Machine.execGetpPec s
  | .getpTo => Sys2Proof.Machine.execGetpTo s
  | .getpRes => Sys2Proof.Machine.execGetpRes s
  | .getpFmt => Sys2Proof.Machine.execGetpFmt s
  | .getaShdn => Sys2Proof.Machine.execGetaShdn s
  | .getaCmpint => Sys2Proof.Machine.execGetaCmpint s
  | .getaFq => Sys2Proof.Machine.execGetaFq s
  | .getaCr => Sys2Proof.Machine.execGetaCr s
  | .getaPec => Sys2Proof.Machine.execGetaPec s
  | .getaTo => Sys2Proof.Machine.execGetaTo s
  | .getaRes => Sys2Proof.Machine.execGetaRes s
  | .getaFmt => Sys2Proof.Machine.execGetaFmt s
  | .rdp => Sys2Proof.Machine.execRdp s
  | .rda => Sys2Proof.Machine.execRda s
  | .xwr reg data => Sys2Proof.Machine.execXwr reg data s
  | .xrd reg n => Sys2Proof.Machine.execXrd reg n s
  | .commit => Sys2Proof.Machine.execCommit s
  | .refresh => Sys2Proof.Machine.execRefresh s
  | .rdt => Sys2Proof.Machine.execRdt s
  | .rdthHyst => Sys2Proof.Machine.execRdthHyst s
  | .rdthTos => Sys2Proof.Machine.execRdthTos s
  | .wrthHyst t => Sys2Proof.Machine.execWrthHyst t s
  | .wrthTos t => Sys2Proof.Machine.execWrthTos t s

end Sys2Proof.Machine
end

