-- ==== Sys2Proof/Machine/Step.lean ====
section
/-!
DEFINITION. One step of the block: it takes the command the host presents next and runs it (00_scope.md R17,
10_state.md R27).
-/

namespace Sys2Proof.Machine

/-- One step. While `faulted` is true there is none (10_state.md R33). Otherwise the presented command is decoded and
run, or, where no row matches its opcode byte, ends with IllegalCommand (60_exceptions.md R158). -/
def step (s : State) : Host.Outcome State Fault Refusal :=
  if s.faulted then .fault .faulted
  else
    match fetch s with
    | none => .refused .noCommand
    | some (c, s') =>
      match decode c with
      | .ok i => exec i s'
      | .error e => illegal e s'

/-- The host presents the command of an opcode-table word next, ahead of all others. -/
def State.withFetchWord (s : State) (nbits w : Nat) : State :=
  { s with commands := wordCommand nbits w :: s.commands }

end Sys2Proof.Machine
end

