-- ==== Sys2Proof/Machine/Assembler.lean ====
section
/-!
DEFINITION. The assembler syntax (30_encoding.md R66, R67): one line of text to the command it stands for. It is a
notation for what the host presents; the block itself reads no text.
-/

namespace Sys2Proof

/-- What a line of assembly is. -/
inductive AsmLine where
  /-- nothing but blanks and a comment -/
  | blank
  /-- one command -/
  | command (i : Instr)
  /-- neither -/
  | invalid
  deriving DecidableEq, Repr

/-- A space or a tab. -/
def isBlankChar (c : Char) : Bool := c == ' ' || c == '\t'

/-- A text without the blanks at its ends. -/
def trimBlanks (cs : List Char) : List Char :=
  ((cs.dropWhile isBlankChar).reverse.dropWhile isBlankChar).reverse

/-- The parts of a text between the commas that stand in no list; `depth` counts the brackets open, `cur` is the part
read so far, reversed. -/
def splitCommas : Nat → List Char → List Char → List (List Char)
  | _, cur, [] => [cur.reverse]
  | depth, cur, c :: cs =>
    if c = ',' ∧ depth = 0 then cur.reverse :: splitCommas 0 [] cs
    else splitCommas (if c = '[' then depth + 1 else if c = ']' then depth - 1 else depth) (c :: cur) cs

/-- The operands of a text, "separated by commas" (R66); none in a blank text. -/
def operandTexts (cs : List Char) : List (List Char) :=
  if trimBlanks cs = [] then [] else (splitCommas 0 [] cs).map trimBlanks

/-- The value of a decimal digit. -/
def decDigit (c : Char) : Option Nat :=
  if 48 ≤ c.toNat ∧ c.toNat ≤ 57 then some (c.toNat - 48) else none

/-- The value of a hexadecimal digit, in either case. -/
def hexDigit (c : Char) : Option Nat :=
  if 65 ≤ c.toNat ∧ c.toNat ≤ 70 then some (c.toNat - 55)
  else if 97 ≤ c.toNat ∧ c.toNat ≤ 102 then some (c.toNat - 87)
  else decDigit c

/-- The value of a digit sequence in a base, most significant digit first, after `acc`. -/
def digitsFrom (base : Nat) (digit : Char → Option Nat) : Nat → List Char → Option Nat
  | acc, [] => some acc
  | acc, c :: cs =>
    match digit c with
    | some d => digitsFrom base digit (acc * base + d) cs
    | none => none

/-- A decimal natural number of at least one digit. -/
def parseNat (cs : List Char) : Option Nat :=
  if cs = [] then none else digitsFrom 10 decDigit 0 cs

/-- "A byte is a decimal or `0x` hex literal 0..255" (R66). -/
def parseByte (cs : List Char) : Option Byte :=
  let n := match cs with
    | '0' :: 'x' :: hex => if hex = [] then none else digitsFrom 16 hexDigit 0 hex
    | _ => parseNat cs
  match n with
  | some n => if n ≤ 255 then some (BitVec.ofNat 8 n) else none
  | none => none

/-- Bytes, all of them or none. -/
def parseBytes : List (List Char) → Option (List Byte)
  | [] => some []
  | cs :: rest =>
    match parseByte cs, parseBytes rest with
    | some b, some bs => some (b :: bs)
    | _, _ => none

/-- "A list is `[b, b, ...]` (`[]` for empty)" (R66). -/
def parseList (cs : List Char) : Option (List Byte) :=
  match cs with
  | '[' :: rest => if rest.getLast? = some ']' then parseBytes (operandTexts rest.dropLast) else none
  | _ => none

/-- "A bit is `0` or `1`" (R66). -/
def parseBit (cs : List Char) : Option Bit :=
  match cs with
  | ['0'] => some 0
  | ['1'] => some 1
  | _ => none

/-- An optional sign, and the text after it. -/
def splitSign (cs : List Char) : Bool × List Char :=
  match cs with
  | '-' :: rest => (true, rest)
  | '+' :: rest => (false, rest)
  | _ => (false, cs)

/-- "V is a decimal integer with optional sign" (R66). -/
def parseInt (cs : List Char) : Option Int :=
  (parseNat (splitSign cs).2).map fun (n : Nat) => if (splitSign cs).1 then -(n : Int) else (n : Int)

/-- "A temperature is a decimal literal with optional sign and fraction, read as the binary64 value nearest to it"
(R66). -/
def parseTemp (cs : List Char) : Option Binary64 :=
  let neg := (splitSign cs).1
  let body := (splitSign cs).2
  let whole := body.takeWhile (· != '.')
  let frac := (body.dropWhile (· != '.')).drop 1
  if body.contains '.' && frac.isEmpty then none
  else
    match parseNat whole, digitsFrom 10 decDigit 0 frac with
    | some w, some f => some (Binary64.nearest neg (w * 10 ^ frac.length + f) (10 ^ frac.length))
    | _, _ => none

/-- The register id of XWR and XRD, "written as the first operand", assembles into `op[1:0]` (R66): 0..3. -/
def parseReg (cs : List Char) : Option Byte :=
  match parseByte cs with
  | some r => if r ≤ 3 then some r else none
  | none => none

/-- The field a field command's suffix names (30_encoding.md R52). -/
def fieldOfSuffix (s : String) : Option FieldId :=
  match s with
  | "SHDN" => some .shutDown
  | "CMPINT" => some .compInt
  | "FQ" => some .faultQueue
  | "CR" => some .conversionRate
  | "PEC" => some .pec
  | "TO" => some .timeOut
  | "RES" => some .resolution
  | "FMT" => some .format
  | _ => none

/-- The suffix of a field, as the mnemonics spell it (R52). -/
def FieldId.suffix : FieldId → String
  | .shutDown => "SHDN"
  | .compInt => "CMPINT"
  | .faultQueue => "FQ"
  | .conversionRate => "CR"
  | .pec => "PEC"
  | .timeOut => "TO"
  | .resolution => "RES"
  | .format => "FMT"

/-- A field command: the part of the mnemonic before the point, the field, and the operands (R55). -/
def assembleField (base : String) (f : FieldId) (ops : List (List Char)) : Option Instr :=
  match base, ops with
  | "FINS", [b, v] =>
    match parseByte b, parseInt v with
    | some b, some v => some (.fins f b v)
    | _, _ => none
  | "FEXT", [b] => (parseByte b).map (.fext f)
  | "SET", [v] => (parseInt v).map (.setField f)
  | "GETP", [] => some (.getp f)
  | "GETA", [] => some (.geta f)
  | _, _ => none

/-- A pseudo-instruction (R67). -/
def assemblePseudo (name : String) (ops : List (List Char)) : Option Pseudo :=
  match name, ops with
  | "RDHYST", [] => some .rdhyst
  | "RDTOS", [] => some .rdtos
  | "WRHYST", [t] => (parseTemp t).map .wrhyst
  | "WRTOS", [t] => (parseTemp t).map .wrtos
  | "PECON", [] => some .pecon
  | "PECOFF", [] => some .pecoff
  | _, _ => none

/-- A command of format P or X (R55, R66). -/
def assemblePlain (name : String) (ops : List (List Char)) : Option Instr :=
  match name, ops with
  | "CRC8", [d] => (parseList d).map .crc8
  | "PECW", [r, d] =>
    match parseByte r, parseList d with
    | some r, some d => some (.pecw r d)
    | _, _ => none
  | "PECR", [r, d] =>
    match parseByte r, parseList d with
    | some r, some d => some (.pecr r d)
    | _, _ => none
  | "TENC", [t, f] =>
    match parseTemp t, parseBit f with
    | some t, some f => some (.tenc t f)
    | _, _ => none
  | "TDEC", [u, l, f] =>
    match parseByte u, parseByte l, parseBit f with
    | some u, some l, some f => some (.tdec u l f)
    | _, _, _ => none
  | "RDP", [] => some .rdp
  | "RDA", [] => some .rda
  | "XWR", [r, d] =>
    match parseReg r, parseList d with
    | some r, some d => some (.xwr r d)
    | _, _ => none
  | "XRD", [r, n] =>
    match parseReg r, parseNat n with
    | some r, some n => some (.xrd r n)
    | _, _ => none
  | "COMMIT", [] => some .commit
  | "REFRESH", [] => some .refresh
  | "RDT", [] => some .rdt
  | "RDTH.HYST", [] => some .rdthHyst
  | "RDTH.TOS", [] => some .rdthTos
  | "WRTH.HYST", [t] => (parseTemp t).map .wrthHyst
  | "WRTH.TOS", [t] => (parseTemp t).map .wrthTos
  | _, _ => none

/-- A mnemonic and its operand texts, "in the order of the operand column of rule R55" (R66). -/
def assembleCommand (name : List Char) (ops : List (List Char)) : Option Instr :=
  match assemblePlain (String.ofList name) ops with
  | some i => some i
  | none =>
    match assemblePseudo (String.ofList name) ops with
    | some p => some p.expand
    | none =>
      match fieldOfSuffix (String.ofList ((name.dropWhile (· != '.')).drop 1)) with
      | some f => assembleField (String.ofList (name.takeWhile (· != '.'))) f ops
      | none => none

/-- One line of assembly: "One command per line: the mnemonic, then its operands"; "A comment starts with `;`" (R66). -/
def assembleLine (line : String) : AsmLine :=
  let text := trimBlanks (line.toList.takeWhile (· != ';'))
  if text = [] then .blank
  else
    match assembleCommand (text.takeWhile (!isBlankChar ·)) (operandTexts (text.dropWhile (!isBlankChar ·))) with
    | some i => .command i
    | none => .invalid

end Sys2Proof
end

