-- ==== Sys2Proof/Safety.lean ====
section
/-!
DEFINITION. The terms the statements use: the invariant of the block, which commands do what kind of thing, and how a
register read ends. None of it is part of the machine.
-/

namespace Sys2Proof

/-- The commands that read `pending` (10_state.md R20): GETP.<field>, RDP and COMMIT. -/
def Instr.readsPending : Instr → Bool
  | .getpShdn => true
  | .getpCmpint => true
  | .getpFq => true
  | .getpCr => true
  | .getpPec => true
  | .getpTo => true
  | .getpRes => true
  | .getpFmt => true
  | .rdp => true
  | .commit => true
  | _ => false

/-- The commands that write `pending` (R20): the eight setters. -/
def Instr.isSetter : Instr → Bool
  | .setShdn _ => true
  | .setCmpint _ => true
  | .setFq _ => true
  | .setCr _ => true
  | .setPec _ => true
  | .setTo _ => true
  | .setRes _ => true
  | .setFmt _ => true
  | _ => false

/-- The commands that show all of `active` (10_state.md R21): GETA.<field> and RDA. -/
def Instr.showsActive : Instr → Bool
  | .getaShdn => true
  | .getaCmpint => true
  | .getaFq => true
  | .getaCr => true
  | .getaPec => true
  | .getaTo => true
  | .getaRes => true
  | .getaFmt => true
  | .rda => true
  | _ => false

/-- The commands that perform a bus transaction (44_transactions.md). -/
def Instr.isBus : Instr → Bool
  | .xwr _ _ => true
  | .xrd _ _ => true
  | .commit => true
  | .refresh => true
  | .rdt => true
  | .rdthHyst => true
  | .rdthTos => true
  | .wrthHyst _ => true
  | .wrthTos _ => true
  | _ => false

end Sys2Proof

namespace Sys2Proof.Machine

/-- The bus address a transaction named. -/
def BusEvent.address : BusEvent → BusAddr
  | .write a _ _ _ => a
  | .read a _ _ _ => a

/-- The register id a transaction named. -/
def BusEvent.reg : BusEvent → Byte
  | .write _ r _ _ => r
  | .read _ r _ _ => r

/-- The agent kept the length contract of 20_memory.md R49 in this transaction: a read that did not fail returned
exactly the bytes requested. -/
def BusEvent.lengthKept : BusEvent → Bool
  | .write _ _ _ _ => true
  | .read _ _ n (.bytes xs) => xs.length == n
  | .read _ _ _ .ioError => true

/-- The STATUS that goes with a RESULT (30_encoding.md R54): success with data or nothing, an error's code with its
info. -/
def Result.status : Result → Status
  | .info e => e.status
  | .nothing => .success
  | .byte _ => .success
  | .bytes _ => .success
  | .pair _ _ => .success
  | .value _ => .success
  | .image _ _ => .success
  | .temperature _ => .success

/-- What holds of the block at every moment of its life. -/
structure State.Inv (s : State) : Prop where
  /-- `DEVICE_ADDRESS` is in 0x48..0x4F (00_scope.md R5) -/
  address : 0x48 ≤ s.deviceAddress.toNat ∧ s.deviceAddress.toNat ≤ 0x4F
  /-- the reserved bits of `pending`, byte0 mask 0xE4, stay 0 (10_state.md R23) -/
  reservedClear : s.pending.b0 &&& 0xE4 = 0
  /-- the oneShot bit of `pending` stays 0 (R24) -/
  oneShotClear : s.pending.b1 &&& 0x01 = 0
  /-- STATUS and RESULT belong together (30_encoding.md R54) -/
  portsAgree : s.status = s.result.status
  /-- every transaction named the block's own device and a register of the map (20_memory.md R35, R40) -/
  ownDevice : ∀ e ∈ s.history, e.address = s.deviceAddress ∧ e.reg.toNat ≤ 3
  /-- the fault mark is set exactly when some answer broke the length contract (10_state.md R33, 20_memory.md R49) -/
  faultedIff : s.faulted = true ↔ ∃ e ∈ s.history, e.lengthKept = false
  /-- while the mark is set, the ports show the breach (60_exceptions.md R160) -/
  faultedShown : s.faulted = true → s.status = .busContractViolation

/-- How many bytes a register read of `n` data bytes asks the agent for (20_memory.md R43). -/
def wireLength (s : State) (n : Nat) : Nat := if s.active.b1[3] then n + 1 else n

/-- The state a register read leaves behind, its end on the ports apart: one history event, one answer used up. -/
def State.afterRead (s : State) (reg : Byte) (n : Nat) : State :=
  { s with
    history := s.history ++ [.read s.deviceAddress reg (wireLength s n) (s.readOutcome (wireLength s n))]
    readAnswers := s.readAnswers.tail
    busDraws := s.busDraws + 1 }

/-- The bytes a register write hands the agent (30_encoding.md R61): the data, and its CRC if the active PEC bit is
set. -/
def wireData (s : State) (reg : Byte) (data : List Byte) : List Byte :=
  if s.active.b1[3] then data ++ [crc8 s.params.crc8Table ([addrWriteByte s.deviceAddress, reg] ++ data)] else data

/-- The state a register write leaves behind, its end on the ports apart. -/
def State.afterWrite (s : State) (reg : Byte) (data : List Byte) : State :=
  { s with
    history := s.history ++ [.write s.deviceAddress reg (wireData s reg data) s.writeOutcome]
    writeAnswers := s.writeAnswers.tail
    busDraws := s.busDraws + 1 }

/-- The CRC a read frame must end with (30_encoding.md R62). -/
def frameCrc (s : State) (reg : Byte) (data : List Byte) : Byte :=
  crc8 s.params.crc8Table ([addrWriteByte s.deviceAddress, reg, addrReadByte s.deviceAddress] ++ data)

/-- How a read of `n` data bytes from a register ends, given what the agent answers in the state `s`
(44_transactions.md R144): the five ends, each with its condition. -/
inductive ReadEnds (s : State) (reg : Byte) (n : Nat) : Except Error (List Byte) → Prop where
  /-- the agent reported IOError -/
  | transport (h : s.readOutcome (wireLength s n) = .ioError) : ReadEnds s reg n (.error (.transportError reg))
  /-- the answer has another length than was asked for -/
  | length (rx : List Byte) (h : s.readOutcome (wireLength s n) = .bytes rx) (hl : rx.length ≠ wireLength s n) :
      ReadEnds s reg n (.error (.busContractViolation reg (wireLength s n) rx.length))
  /-- PEC on, and the last byte is not the CRC -/
  | mismatch (data : List Byte) (c : Byte) (hp : s.active.b1[3] = true)
      (h : s.readOutcome (wireLength s n) = .bytes (data ++ [c])) (hl : data.length = n)
      (hc : c ≠ frameCrc s reg data) :
      ReadEnds s reg n (.error (.checksumMismatch reg (frameCrc s reg data) c))
  /-- PEC on, and the last byte is the CRC -/
  | framed (data : List Byte) (hp : s.active.b1[3] = true)
      (h : s.readOutcome (wireLength s n) = .bytes (data ++ [frameCrc s reg data])) (hl : data.length = n) :
      ReadEnds s reg n (.ok data)
  /-- PEC off: "return the raw bytes from the bus collaborator unmodified" -/
  | plain (data : List Byte) (hp : s.active.b1[3] = false)
      (h : s.readOutcome (wireLength s n) = .bytes data) (hl : data.length = n) :
      ReadEnds s reg n (.ok data)

/-- The state XRD leaves when its read ends with `r` (44_transactions.md R144): the data on RESULT, or the error, which
sets the fault mark only if it is a fault. -/
def State.afterReadEnd (s : State) (reg : Byte) (n : Nat) (r : Except Error (List Byte)) : State :=
  match r with
  | .ok data => { s.afterRead reg n with status := .success, result := .bytes data }
  | .error e => { s.afterRead reg n with status := e.status, result := .info e, faulted := e.isFault }

/-- The precision `p` of a format bit (42_temperature.md R77). -/
def pOf (f : Bit) : Nat := if f = 1 then 3 else 4

/-- The active format bit, `active.b1` bit 7 (R85). -/
def formatOf (s : State) : Bit := if s.active.b1[7] then 1 else 0

/-- The magnitude in sixteenths of a Celsius value, an exact rational's floor (42_temperature.md R78, R80). -/
def sixteenths (t : Binary64) : Nat := ⌊16 * t.absRat⌋₊

/-- The operands TENC refuses (R78, R80): not finite; a 16-fold magnitude above the largest finite binary64 value; and,
under `ENC_OVERFLOW = FAULT`, a magnitude that does not fit the format. -/
def TencRefuses (policy : EncOverflow) (t : Binary64) (f : Bit) : Prop :=
  t.isFinite = false ∨ 16 * t.absRat > (2 - 1 / 2 ^ 52) * 2 ^ 1023 ∨
    (sixteenths t > 2 ^ (15 - pOf f) - 1 ∧ policy = .fault)

/-- The upper byte TENC gives: the high bits of the magnitude, and the sign in bit 7 (R78). -/
def tencUpper (t : Binary64) (f : Bit) : Byte :=
  BitVec.ofNat 8 (sixteenths t / 2 ^ (8 - pOf f) % 128 + if t.toRat < 0 then 128 else 0)

/-- The lower byte TENC gives: the low bits of the magnitude, left aligned (R78). -/
def tencLower (t : Binary64) (f : Bit) : Byte := BitVec.ofNat 8 (sixteenths t * 2 ^ pOf f % 256)

/-- Bit `j` of byte `i` of a list, flipped. -/
def flipBit (xs : List Byte) (i j : Nat) : List Byte := xs.modify i (· ^^^ BitVec.twoPow 8 j)

/-- A run is safe when it stops in no fault. -/
def SafeRun (k : Nat) (s : State) : Prop := ∀ f, Sys2Proof.core.run k s ≠ .fault f

end Sys2Proof.Machine
end

