-- ==== Sys2Proof/Certificates/Slice0/Obligations.lean ====
section
/-!
DEFINITION. The statements for the provers, each a named proposition. OBLIGATIONS.json says of each which rule of
spec/ it formalises.
-/

open Sys2Proof Sys2Proof.Machine

/-! ### Commands, decoding and stepping -/

/-- Decoding what the encoder writes for a well-formed command gives the command back, every operand with it. -/
def Obligations.DecodeOfEncodeIsTheCommand : Prop :=
  ∀ i : Instr, i.wellFormed = true → decode (encode i) = .ok i

/-- Whatever decodes is well formed and has the opcode byte it was read from, and decoding looks at no port that the
command does not name: zeroing the others gives the same command. -/
def Obligations.DecodedCommandReencodes : Prop :=
  ∀ (c : Command) (i : Instr), decode c = .ok i →
    i.wellFormed = true ∧ (encode i).op = c.op ∧ decode ⟨c.op, (encode i).ports⟩ = .ok i

/-- R57 and R158: the 194 bytes of the list are illegal and the 62 others are assigned; presenting an illegal one raises
IllegalCommand and changes no state. That the step is a next state, where R158 also lets a model refuse at decode, is
the model's choice (log entry 9); so is that the step takes the command off `commands` (log entry 1). -/
def Obligations.UnassignedOpcodesRaiseIllegalCommand : Prop :=
  let unassigned : Nat → Bool := fun n =>
    n == 0x00 || (0x02 ≤ n && n ≤ 0x07) || (0x0A ≤ n && n ≤ 0x0F) || (0x12 ≤ n && n ≤ 0x1F) ||
      (0x4A ≤ n && n ≤ 0x4F) || (0x58 ≤ n && n ≤ 0x5F) || (0x62 ≤ n && n ≤ 0x6F) || n == 0x71 ||
      (0x74 ≤ n && n ≤ 0x79) || (0x7C ≤ n && n ≤ 0xFF)
  let assigned : Nat → Bool := fun n =>
    n == 0x01 || n == 0x08 || n == 0x09 || n == 0x10 || n == 0x11 || (0x20 ≤ n && n ≤ 0x49) ||
      (0x50 ≤ n && n ≤ 0x57) || n == 0x60 || n == 0x61 || n == 0x70 || n == 0x72 || n == 0x73 || n == 0x7A || n == 0x7B
  ((List.range 256).countP unassigned = 194 ∧ (List.range 256).countP assigned = 62) ∧
  ∀ c : Command,
    (assigned c.op.toNat = true ↔ unassigned c.op.toNat = false) ∧
    (assigned c.op.toNat = true → ∃ i, decode c = .ok i) ∧
    (unassigned c.op.toNat = true →
      decode c = .error (.unassigned c.op) ∧
      ∀ (s : State) (rest : List Command), s.faulted = false → s.commands = c :: rest →
        step s = .next { s with commands := rest, status := .illegalCommand, result := .info (.illegalCommand c.op) })

/-- R56: at most one row of the opcode map matches any byte. -/
def Obligations.AtMostOneRowMatches : Prop :=
  ∀ op : Byte, opcodeRows.countP (rowMatches op) ≤ 1

/-- Bytes written out from the opcode map decode to their commands, with the ports that each names. -/
def Obligations.SampleOpcodesDecode : Prop :=
  ∀ p : Ports,
    decode ⟨0x01, p⟩ = .ok (.crc8 p.data) ∧ decode ⟨0x10, p⟩ = .ok (.tenc p.t p.f) ∧
    decode ⟨0x27, p⟩ = .ok (.finsFmt p.b p.v) ∧ decode ⟨0x34, p⟩ = .ok (.setPec p.v) ∧
    decode ⟨0x3E, p⟩ = .ok .getpRes ∧ decode ⟨0x53, p⟩ = .ok (.xwr 3 p.data) ∧
    decode ⟨0x56, p⟩ = .ok (.xrd 2 p.n) ∧ decode ⟨0x7B, p⟩ = .ok (.wrthTos p.t)

/-- A step takes the command the host presents next and runs what it decodes to. -/
def Obligations.StepRunsTheDecodedCommand : Prop :=
  ∀ (s : State) (c : Command) (rest : List Command) (i : Instr),
    s.faulted = false → s.commands = c :: rest → decode c = .ok i → step s = exec i { s with commands := rest }

/-! ### Construction, the fault mark and the invariant -/

/-- R26: after construction, with any offset and parameters, both copies are 0x0040, so resolution is 2 and every other
field 0; the block is not faulted and has performed no transaction. -/
def Obligations.ConstructionGivesPowerOnCopies : Prop :=
  ∀ (off : Nat) (p : Params) (s : State), State.construct off p = some s →
    s.pending = { b0 := 0x00, b1 := 0x40 } ∧ s.active = s.pending ∧ s.pending.word = 0x0040 ∧
    (∀ f : FieldId, f.extract (s.pending.byteOf f) = if f = .resolution then 2 else 0) ∧
    s.pending.b0 &&& 0xE4 = 0 ∧ s.pending.b1 &&& 0x01 = 0 ∧
    s.faulted = false ∧ s.history = [] ∧ s.params = p

/-- R5: a construction is accepted exactly for offsets 0..7, the address is 0x48 + PART_OFFSET, and no step changes
it (nor the other parameters). -/
def Obligations.DeviceAddressIsFixedAtConstruction : Prop :=
  (∀ (off : Nat) (p : Params), (∃ s, State.construct off p = some s) ↔ off ≤ 7) ∧
  (∀ (off : Nat) (p : Params) (s : State), State.construct off p = some s →
    s.deviceAddress.toNat = 0x48 + off ∧ s.deviceAddress.toNat ≤ 0x4F) ∧
  (∀ s t : State, step s = .next t → t.deviceAddress = s.deviceAddress ∧ t.params = s.params)

/-- R33: the mark is false at construction, a command sets it exactly when it raises BusContractViolation, and while
it is true no command has a step, so nothing clears it. -/
def Obligations.FaultMarkStopsTheBlock : Prop :=
  (∀ (off : Nat) (p : Params) (s : State), State.construct off p = some s → s.faulted = false) ∧
  (∀ (i : Instr) (s t : State), exec i s = .next t →
    (t.faulted = true ↔ ∃ reg m k, t.result = .info (.busContractViolation reg m k))) ∧
  (∀ s t : State, step s = .next t →
    (t.faulted = true ↔ ∃ reg m k, t.result = .info (.busContractViolation reg m k))) ∧
  (∀ s : State, s.faulted = true → step s = .fault .faulted ∧ ∀ i : Instr, exec i s = .fault .faulted)

/-- A step leaves the block faulted exactly when it performed a read whose answer broke the length contract (R49,
R160); an agent the host has scripted no answer for keeps the contract, whatever the free values are (log entry 3: the
model's own form of the oracle). -/
def Obligations.OnlyABrokenAnswerFaults : Prop :=
  ∀ s t : State, step s = .next t →
    (t.faulted = true ↔ ∃ e, t.history = s.history ++ [e] ∧ e.lengthKept = false) ∧
    (s.readAnswers = [] → t.faulted = false)

/-- Every step keeps the invariant of the block, from every state that has it. -/
def Obligations.StepKeepsTheInvariant : Prop :=
  ∀ s t : State, s.Inv → step s = .next t → t.Inv

/-- A constructed block has the invariant; so has the reset state. -/
def Obligations.ConstructedBlockHasTheInvariant : Prop :=
  (∀ (off : Nat) (p : Params) (s : State), State.construct off p = some s → s.Inv) ∧ State.reset.Inv

/-! ### What commands change and what they leave -/

/-- R20, writers: a command that is no setter leaves `pending` as it is, and a setter changes only its own field's
bits. -/
def Obligations.OnlySettersWritePending : Prop :=
  ∀ (i : Instr) (s t : State), exec i s = .next t →
    (i.isSetter = false → t.pending = s.pending) ∧
    (∀ f v, i = .setField f v →
      t.pending.byteOf f &&& ~~~f.mask = s.pending.byteOf f &&& ~~~f.mask ∧
      ∀ g : FieldId, g.byteSel ≠ f.byteSel → t.pending.byteOf g = s.pending.byteOf g)

/-- R21, writers: `active` changes only by a successful COMMIT, which copies `pending`, by a successful REFRESH, and by
SET.PEC with value 1, which sets bit 3 of byte1 and no other. -/
def Obligations.OnlyThreeCommandsWriteActive : Prop :=
  ∀ (i : Instr) (s t : State), exec i s = .next t →
    t.active = s.active ∨ (i = .commit ∧ t.status = .success ∧ t.active = s.pending) ∨
    (i = .refresh ∧ t.status = .success) ∨
    (i = .setPec 1 ∧ t.active = { s.active with b1 := s.active.b1 ||| 0x08 })

/-- A command that neither sets a field nor uses the bus changes nothing but the two ports. -/
def Obligations.OtherCommandsOnlyReport : Prop :=
  ∀ (i : Instr) (s t : State), i.isSetter = false → i.isBus = false → exec i s = .next t →
    t = { s with status := t.status, result := t.result }

/-- A command that ends with an error leaves both copies, the address, the parameters and the commands to come as they
were. -/
def Obligations.ErrorsLeaveTheCopies : Prop :=
  ∀ (i : Instr) (s t : State) (e : Error), exec i s = .next t → t.result = .info e →
    t.pending = s.pending ∧ t.active = s.active ∧ t.deviceAddress = s.deviceAddress ∧ t.params = s.params ∧
    t.commands = s.commands ∧ t.status = e.status

/-- A step performs at most one bus transaction, with the block's own device and a register of the map; the events
recorded before it stay. -/
def Obligations.StepPerformsAtMostOneTransaction : Prop :=
  ∀ s t : State, step s = .next t →
    t.history = s.history ∨
    ∃ e, t.history = s.history ++ [e] ∧ e.address = s.deviceAddress ∧ e.reg.toNat ≤ 3

/-- The history is never read: a command does the same whatever is recorded, and appends the same events. -/
def Obligations.HistoryIsNeverRead : Prop :=
  ∀ (i : Instr) (s t : State) (h : List BusEvent), exec i s = .next t →
    ∃ es, t.history = s.history ++ es ∧ exec i { s with history := h } = .next { t with history := h ++ es }

/-- R20, readers: a command other than GETP, RDP, COMMIT and the setters does the same whatever `pending` holds. -/
def Obligations.PendingIsReadOnlyByItsReaders : Prop :=
  ∀ (i : Instr) (s t : State) (c : ConfigWord), i.readsPending = false → i.isSetter = false → exec i s = .next t →
    exec i { s with pending := c } = .next { t with pending := c }

/-- Of `active`, only the PEC bit and the format bit reach what a command other than GETA and RDA does: with those two
bits equal, the ports, the bus traffic, `pending` and the fault mark come out equal. -/
def Obligations.OnlyPecAndFormatBitsOfActiveMatter : Prop :=
  ∀ (i : Instr) (s t : State) (c : ConfigWord), i.showsActive = false →
    (c.b1)[3] = s.active.b1[3] → (c.b1)[7] = s.active.b1[7] → exec i s = .next t →
    ∃ t', exec i { s with active := c } = .next t' ∧ t'.status = t.status ∧ t'.result = t.result ∧
      t'.history = t.history ∧ t'.pending = t.pending ∧ t'.faulted = t.faulted

/-! ### The CRC-8 engine -/

/-- R68: opcode 0x01 is CRC8, which returns the fold of the table over DATA from 0 and writes no state; so 0 for an empty
list, and 0xFA for the rule's example with the default table. -/
def Obligations.Crc8ReturnsTheFold : Prop :=
  (∀ p : Ports, decode ⟨0x01, p⟩ = .ok (.crc8 p.data)) ∧
  (∀ (s : State) (data : List Byte), s.faulted = false →
    exec (.crc8 data) s = .next { s with
      status := .success
      result := .byte (data.foldl (fun acc b => s.params.crc8Table[(acc ^^^ b).toNat]'(BitVec.isLt _)) 0) }) ∧
  (∀ s : State, s.faulted = false →
    exec (.crc8 []) s = .next { s with status := .success, result := .byte 0 }) ∧
  (∀ s : State, s.faulted = false → s.params.crc8Table = defaultCrcTable →
    exec (.crc8 [0x90, 0x01, 0x00, 0x40]) s = .next { s with status := .success, result := .byte 0xFA })

/-- The laws of R72, for every table. -/
def Obligations.CrcLawsForEveryTable : Prop :=
  ∀ table : Vector Byte 256,
    crc8 table [] = 0 ∧ (∀ b, crc8 table [b] = crcLookup table b) ∧
    (∀ xs b, crc8 table (xs ++ [b]) = crcLookup table (crc8 table xs ^^^ b)) ∧
    (∀ xs ys, crc8 table (xs ++ ys) = ys.foldl (fun acc b => crcLookup table (acc ^^^ b)) (crc8 table xs))

/-- The default table is the one of the generator polynomial 0x07, most significant bit first (R70; the spec's default
from general knowledge, log entry 2). -/
def Obligations.DefaultTableIsPolynomial07 : Prop :=
  ∀ b : Byte,
    crcLookup defaultCrcTable b =
      (fun x : Byte => if x[7] then (x <<< 1) ^^^ 0x07 else x <<< 1)^[8] b

/-- With the default table, flipping any one bit anywhere in a list changes its CRC (R73 (c)). -/
def Obligations.SingleBitErrorChangesTheCrc : Prop :=
  ∀ (xs : List Byte) (i j : Nat), i < xs.length → j < 8 →
    crc8 defaultCrcTable (flipBit xs i j) ≠ crc8 defaultCrcTable xs

/-- With the default table, a read frame that PECR accepts is rejected, with ChecksumMismatch and no data, once any
one of its bits is flipped, in the data or in the CRC byte. -/
def Obligations.PecrRejectsEverySingleBitError : Prop :=
  ∀ (s t : State) (reg : Byte) (rx : List Byte) (i j : Nat), s.params.crc8Table = defaultCrcTable →
    exec (.pecr reg rx) s = .next t → t.status = .success → i < rx.length → j < 8 →
    ∃ expected received, exec (.pecr reg (flipBit rx i j)) s = .next { s with
      status := .checksumMismatch, result := .info (.checksumMismatch reg expected received) }

/-! ### The temperature codec -/

/-- R78 and R80: opcode 0x10 is TENC, which raises InvalidOperand for a value that is not finite, whose 16-fold
magnitude exceeds the largest finite binary64 value, or, under ENC_OVERFLOW = FAULT, whose magnitude does not fit the
format; for every other it returns the byte pair of `d = floor(16 * |T|)`, an exact rational's floor, and of the sign
of T. -/
def Obligations.TencTruncatesTheExactMagnitude : Prop :=
  (∀ p : Ports, decode ⟨0x10, p⟩ = .ok (.tenc p.t p.f)) ∧
  ∀ (s : State) (t : Binary64) (f : Bit), s.faulted = false →
    (TencRefuses s.params.encOverflow t f → exec (.tenc t f) s = .next { s with
      status := .invalidOperand, result := .info (.invalidOperand (.temperature t)) }) ∧
    (¬ TencRefuses s.params.encOverflow t f → exec (.tenc t f) s = .next { s with
      status := .success, result := .pair (tencUpper t f) (tencLower t f) })

/-- A magnitude out of range wraps under ENC_OVERFLOW = TRUNCATE: the pair holds `d mod 2^(15-p)`, the sign of T, and
zeros below (R79). -/
def Obligations.OutOfRangeMagnitudeWraps : Prop :=
  ∀ (s : State) (t : Binary64) (f : Bit), s.faulted = false → s.params.encOverflow = .truncate →
    ¬ TencRefuses .truncate t f →
    ∃ u l, exec (.tenc t f) s = .next { s with status := .success, result := .pair u l } ∧
      u.toNat % 128 * 2 ^ (8 - pOf f) + l.toNat / 2 ^ pOf f = sixteenths t % 2 ^ (15 - pOf f) ∧
      (u[7] = true ↔ t.toRat < 0) ∧ l.toNat % 2 ^ pOf f = 0

/-- R81: opcode 0x11 is TDEC, which returns the binary64 number whose exact magnitude is `M / 16`, with the sign of bit 7
of U, so `-0.0` for a negative zero. -/
def Obligations.TdecDecodesTheExactValue : Prop :=
  (∀ p : Ports, decode ⟨0x11, p⟩ = .ok (.tdec p.u p.l p.f)) ∧
  ∀ (s : State) (u l : Byte) (f : Bit), s.faulted = false →
    exec (.tdec u l f) s = .next { s with status := .success, result := .temperature (tempDecode u l f) } ∧
    (tempDecode u l f).isFinite = true ∧ (tempDecode u l f).sign = u[7] ∧
    (tempDecode u l f).absRat = ((u.toNat % 128 * 2 ^ (8 - pOf f) + l.toNat / 2 ^ pOf f : Nat) : ℚ) / 16

/-- R84: decoding an encoded representable value gives an equal value; encoding a decoded pair gives the pair with its
ignored bits cleared, but the negative zero comes back as (0x00, 0x00). -/
def Obligations.CodecRoundTrips : Prop :=
  (∀ (s : State) (t : Binary64) (f : Bit) (k : Nat), s.faulted = false → t.isFinite = true →
    16 * t.absRat = k → k ≤ 2 ^ (15 - pOf f) - 1 →
    ∃ u l v, exec (.tenc t f) s = .next { s with status := .success, result := .pair u l } ∧
      exec (.tdec u l f) s = .next { s with status := .success, result := .temperature v } ∧ v.eqv t = true) ∧
  (∀ (s : State) (u l : Byte) (f : Bit), s.faulted = false →
    ∃ v u' l', exec (.tdec u l f) s = .next { s with status := .success, result := .temperature v } ∧
      exec (.tenc v f) s = .next { s with status := .success, result := .pair u' l' } ∧
      l'.toNat = (if u = 0x80 ∧ l.toNat / 2 ^ pOf f = 0 then 0 else l.toNat / 2 ^ pOf f * 2 ^ pOf f) ∧
      u' = if u = 0x80 ∧ l.toNat / 2 ^ pOf f = 0 then 0 else u)

/-! ### Configuration fields -/

/-- R95 and its seven sisters: each FINS checks its own domain, then keeps every bit outside its own and places the
value; a value outside the domain raises InvalidFieldValue. -/
def Obligations.FinsInsertsItsField : Prop :=
  let inserts (op : Byte) (mk : Byte → Int → Instr) (fid : FieldId) (keep : Byte) (shift : Nat) (dmax : Int) :
      Prop :=
    (∀ p : Ports, decode ⟨op, p⟩ = .ok (mk p.b p.v)) ∧
    ∀ (s : State) (b : Byte) (v : Int), s.faulted = false →
      if 0 ≤ v ∧ v ≤ dmax then
        exec (mk b v) s = .next { s with
          status := .success, result := .byte ((b &&& keep) ||| BitVec.ofNat 8 (v.toNat <<< shift)) }
      else
        exec (mk b v) s = .next { s with
          status := .invalidFieldValue, result := .info (.invalidFieldValue fid v) }
  inserts 0x20 .finsShdn .shutDown 0xFE 0 1 ∧ inserts 0x21 .finsCmpint .compInt 0xFD 1 1 ∧
  inserts 0x22 .finsFq .faultQueue 0xE7 3 3 ∧ inserts 0x23 .finsCr .conversionRate 0xF9 1 3 ∧
  inserts 0x24 .finsPec .pec 0xF7 3 1 ∧ inserts 0x25 .finsTo .timeOut 0xEF 4 1 ∧
  inserts 0x26 .finsRes .resolution 0x9F 5 3 ∧ inserts 0x27 .finsFmt .format 0x7F 7 1

/-- R96 and its seven sisters: each FEXT masks and shifts its own field out, and never raises. -/
def Obligations.FextExtractsItsField : Prop :=
  let extracts (op : Byte) (mk : Byte → Instr) (mask : Byte) (shift dmax : Nat) : Prop :=
    (∀ p : Ports, decode ⟨op, p⟩ = .ok (mk p.b)) ∧
    ∀ (s : State) (b : Byte), s.faulted = false →
      exec (mk b) s = .next { s with status := .success, result := .value ((b &&& mask).toNat >>> shift) } ∧
      (b &&& mask).toNat >>> shift ≤ dmax
  extracts 0x28 .fextShdn 0x01 0 1 ∧ extracts 0x29 .fextCmpint 0x02 1 1 ∧ extracts 0x2A .fextFq 0x18 3 3 ∧
  extracts 0x2B .fextCr 0x06 1 3 ∧ extracts 0x2C .fextPec 0x08 3 1 ∧ extracts 0x2D .fextTo 0x10 4 1 ∧
  extracts 0x2E .fextRes 0x60 5 3 ∧ extracts 0x2F .fextFmt 0x80 7 1

/-- R97 and the six other setters that touch `pending` alone: the field's byte of `pending` takes the value; a value
outside the domain raises InvalidFieldValue and nothing else changes. -/
def Obligations.SetWritesItsPendingField : Prop :=
  let sets0 (op : Byte) (mk : Int → Instr) (fid : FieldId) (keep : Byte) (shift : Nat) (dmax : Int) : Prop :=
    (∀ p : Ports, decode ⟨op, p⟩ = .ok (mk p.v)) ∧
    ∀ (s : State) (v : Int), s.faulted = false →
      if 0 ≤ v ∧ v ≤ dmax then
        exec (mk v) s = .next { s with
          pending := { s.pending with b0 := (s.pending.b0 &&& keep) ||| BitVec.ofNat 8 (v.toNat <<< shift) }
          status := .success, result := .nothing }
      else
        exec (mk v) s = .next { s with
          status := .invalidFieldValue, result := .info (.invalidFieldValue fid v) }
  let sets1 (op : Byte) (mk : Int → Instr) (fid : FieldId) (keep : Byte) (shift : Nat) (dmax : Int) : Prop :=
    (∀ p : Ports, decode ⟨op, p⟩ = .ok (mk p.v)) ∧
    ∀ (s : State) (v : Int), s.faulted = false →
      if 0 ≤ v ∧ v ≤ dmax then
        exec (mk v) s = .next { s with
          pending := { s.pending with b1 := (s.pending.b1 &&& keep) ||| BitVec.ofNat 8 (v.toNat <<< shift) }
          status := .success, result := .nothing }
      else
        exec (mk v) s = .next { s with
          status := .invalidFieldValue, result := .info (.invalidFieldValue fid v) }
  sets0 0x30 .setShdn .shutDown 0xFE 0 1 ∧ sets0 0x31 .setCmpint .compInt 0xFD 1 1 ∧
  sets0 0x32 .setFq .faultQueue 0xE7 3 3 ∧
  sets1 0x33 .setCr .conversionRate 0xF9 1 3 ∧ sets1 0x35 .setTo .timeOut 0xEF 4 1 ∧
  sets1 0x36 .setRes .resolution 0x9F 5 3 ∧ sets1 0x37 .setFmt .format 0x7F 7 1

/-- R117: opcode 0x34 is SET.PEC, which writes bit 3 of `pending.b1`; with value 1 it also sets bit 3 of `active.b1`,
with value 0 it leaves `active`; any other value raises InvalidFieldValue and changes neither copy. -/
def Obligations.SetPecEnablesBothCopies : Prop :=
  (∀ p : Ports, decode ⟨0x34, p⟩ = .ok (.setPec p.v)) ∧
  ∀ s : State, s.faulted = false →
    exec (.setPec 1) s = .next { s with
      pending := { s.pending with b1 := (s.pending.b1 &&& 0xF7) ||| 0x08 }
      active := { s.active with b1 := s.active.b1 ||| 0x08 }
      status := .success, result := .nothing } ∧
    exec (.setPec 0) s = .next { s with
      pending := { s.pending with b1 := s.pending.b1 &&& 0xF7 }
      status := .success, result := .nothing } ∧
    ∀ v : Int, v ≠ 0 → v ≠ 1 → exec (.setPec v) s = .next { s with
      status := .invalidFieldValue, result := .info (.invalidFieldValue .pec v) }

/-- R98 and its seven sisters: each GETP returns its field of `pending`. -/
def Obligations.GetpReadsPending : Prop :=
  ∀ s : State, s.faulted = false →
    let gives (op : Byte) (i : Instr) (n : Nat) : Prop :=
      (∀ p : Ports, decode ⟨op, p⟩ = .ok i) ∧ exec i s = .next { s with status := .success, result := .value n }
    gives 0x38 .getpShdn (s.pending.b0 &&& 0x01).toNat ∧ gives 0x39 .getpCmpint ((s.pending.b0 &&& 0x02).toNat >>> 1) ∧
    gives 0x3A .getpFq ((s.pending.b0 &&& 0x18).toNat >>> 3) ∧ gives 0x3B .getpCr ((s.pending.b1 &&& 0x06).toNat >>> 1) ∧
    gives 0x3C .getpPec ((s.pending.b1 &&& 0x08).toNat >>> 3) ∧ gives 0x3D .getpTo ((s.pending.b1 &&& 0x10).toNat >>> 4) ∧
    gives 0x3E .getpRes ((s.pending.b1 &&& 0x60).toNat >>> 5) ∧ gives 0x3F .getpFmt ((s.pending.b1 &&& 0x80).toNat >>> 7)

/-- R99 and its seven sisters: each GETA returns its field of `active`. -/
def Obligations.GetaReadsActive : Prop :=
  ∀ s : State, s.faulted = false →
    let gives (op : Byte) (i : Instr) (n : Nat) : Prop :=
      (∀ p : Ports, decode ⟨op, p⟩ = .ok i) ∧ exec i s = .next { s with status := .success, result := .value n }
    gives 0x40 .getaShdn (s.active.b0 &&& 0x01).toNat ∧ gives 0x41 .getaCmpint ((s.active.b0 &&& 0x02).toNat >>> 1) ∧
    gives 0x42 .getaFq ((s.active.b0 &&& 0x18).toNat >>> 3) ∧ gives 0x43 .getaCr ((s.active.b1 &&& 0x06).toNat >>> 1) ∧
    gives 0x44 .getaPec ((s.active.b1 &&& 0x08).toNat >>> 3) ∧ gives 0x45 .getaTo ((s.active.b1 &&& 0x10).toNat >>> 4) ∧
    gives 0x46 .getaRes ((s.active.b1 &&& 0x60).toNat >>> 5) ∧ gives 0x47 .getaFmt ((s.active.b1 &&& 0x80).toNat >>> 7)

/-- R135 and R136: RDP and RDA return the whole copies, and change nothing else. -/
def Obligations.WholeCopyReads : Prop :=
  (∀ p : Ports, decode ⟨0x48, p⟩ = .ok .rdp ∧ decode ⟨0x49, p⟩ = .ok .rda) ∧
  ∀ s : State, s.faulted = false →
    exec .rdp s = .next { s with status := .success, result := .image s.pending.b0 s.pending.b1 } ∧
    exec .rda s = .next { s with status := .success, result := .image s.active.b0 s.active.b1 }

/-- The field laws of R137 (a) to (d): extract undoes insert, insert keeps every bit outside its own and every other
field of the byte, and inserting twice, or inserting what is there, changes nothing. -/
def Obligations.FieldInsertExtractLaws : Prop :=
  ∀ (f : FieldId) (b : Byte) (v : Int), f.inDomain v = true →
    (f.extract (f.insert b v) : Int) = v ∧ f.insert b v &&& ~~~f.mask = b &&& ~~~f.mask ∧
    (∀ g : FieldId, g ≠ f → g.byteSel = f.byteSel → g.extract (f.insert b v) = g.extract b) ∧
    f.insert (f.insert b v) v = f.insert b v ∧ f.insert b (f.extract b) = b ∧ f.inDomain (f.extract b) = true

/-- R137 (e): setters on different fields commute, and a later setter on the same field overrides an earlier one in
`pending`. -/
def Obligations.SettersCommute : Prop :=
  ∀ (s : State) (f g : FieldId) (v w : Int), s.faulted = false → f.inDomain v = true → g.inDomain w = true →
    ∃ sf sg t, exec (.setField f v) s = .next sf ∧ exec (.setField g w) s = .next sg ∧
      exec (.setField g w) sf = .next t ∧
      (f ≠ g → exec (.setField f v) sg = .next t) ∧ (f = g → t.pending = sg.pending)

/-! ### PEC framing and register transactions -/

/-- R141 and R139: PECW returns the write frame of DATA, whatever the PEC bit, and does nothing else. -/
def Obligations.PecwReturnsTheWriteFrame : Prop :=
  (∀ p : Ports, decode ⟨0x08, p⟩ = .ok (.pecw p.reg p.data)) ∧
  ∀ (s : State) (reg : Byte) (data : List Byte), s.faulted = false →
    exec (.pecw reg data) s = .next { s with
      status := .success
      result := .bytes (data ++ [crc8 s.params.crc8Table ([s.deviceAddress.setWidth 8 <<< 1, reg] ++ data)]) }

/-- R142 and R140: PECR raises InvalidOperand for an empty RX; otherwise it compares the last byte with the CRC of the
header and the data, and returns the data or ChecksumMismatch and no data. -/
def Obligations.PecrChecksTheReadFrame : Prop :=
  (∀ p : Ports, decode ⟨0x09, p⟩ = .ok (.pecr p.reg p.rx)) ∧
  ∀ (s : State) (reg : Byte), s.faulted = false →
    exec (.pecr reg []) s = .next { s with
      status := .invalidOperand, result := .info (.invalidOperand (.rx [])) } ∧
    ∀ (data : List Byte) (received : Byte),
      let c := crc8 s.params.crc8Table
        ([s.deviceAddress.setWidth 8 <<< 1, reg, (s.deviceAddress.setWidth 8 <<< 1) + 1] ++ data)
      if c = received then
        exec (.pecr reg (data ++ [received])) s = .next { s with status := .success, result := .bytes data }
      else
        exec (.pecr reg (data ++ [received])) s = .next { s with
          status := .checksumMismatch, result := .info (.checksumMismatch reg c received) }

/-- R143: XWR hands the agent DATA, framed if the active PEC bit is set, as one transaction; no copy changes; an IOError
is TransportError. -/
def Obligations.XwrWritesTheRegister : Prop :=
  (∀ (reg : Byte) (p : Ports), reg ≤ 3 → decode ⟨0x50 + reg, p⟩ = .ok (.xwr reg p.data)) ∧
  ∀ (s : State) (reg : Byte) (data : List Byte), s.faulted = false →
    (s.writeOutcome = .ok →
      exec (.xwr reg data) s = .next { s.afterWrite reg data with status := .success, result := .nothing }) ∧
    (s.writeOutcome = .ioError →
      exec (.xwr reg data) s = .next { s.afterWrite reg data with
        status := .transportError, result := .info (.transportError reg) })

/-- R144 and R161: whatever the agent answers, a register read has exactly one of the ends of R144, and XRD, of a block
not faulted, answers the next state that this end calls for. -/
def Obligations.EveryReadEndsOneWay : Prop :=
  ∀ (s : State) (reg : Byte) (n : Nat), s.faulted = false →
    ∃ r, ReadEnds s reg n r ∧ (∀ r', ReadEnds s reg n r' → r' = r) ∧
      exec (.xrd reg n) s = .next (s.afterReadEnd reg n r)

/-- R144: XRD asks for N bytes, N + 1 with PEC on, as one transaction, and returns the N data bytes or the error the
answer calls for; only a broken length contract sets the fault mark. -/
def Obligations.XrdReadsTheRegister : Prop :=
  (∀ (reg : Byte) (p : Ports), reg ≤ 3 → decode ⟨0x54 + reg, p⟩ = .ok (.xrd reg p.n)) ∧
  ∀ (s : State) (reg : Byte) (n : Nat), s.faulted = false →
    (∀ data, ReadEnds s reg n (.ok data) →
      exec (.xrd reg n) s = .next { s.afterRead reg n with status := .success, result := .bytes data }) ∧
    (∀ e, ReadEnds s reg n (.error e) →
      exec (.xrd reg n) s = .next { s.afterRead reg n with
        status := e.status, result := .info e, faulted := e.isFault })

/-- R145: COMMIT writes `[pending.b0, pending.b1]` to register 1, framed by the PEC bit `active` holds before it, and
then makes `active` equal to `pending`; on IOError `active` keeps its value. -/
def Obligations.CommitWritesThenCopies : Prop :=
  (∀ p : Ports, decode ⟨0x60, p⟩ = .ok .commit) ∧
  ∀ s : State, s.faulted = false →
    (s.writeOutcome = .ok →
      exec .commit s = .next { s.afterWrite 1 [s.pending.b0, s.pending.b1] with
        active := s.pending, status := .success, result := .nothing }) ∧
    (s.writeOutcome = .ioError →
      exec .commit s = .next { s.afterWrite 1 [s.pending.b0, s.pending.b1] with
        status := .transportError, result := .info (.transportError 1) })

/-- R146: REFRESH reads the two bytes of register 1 into `active`, verbatim and byte0 first; on any error `active` keeps
its value. -/
def Obligations.RefreshLoadsActive : Prop :=
  (∀ p : Ports, decode ⟨0x61, p⟩ = .ok .refresh) ∧
  ∀ s : State, s.faulted = false →
    (∀ b0 b1, ReadEnds s 1 2 (.ok [b0, b1]) →
      exec .refresh s = .next { s.afterRead 1 2 with
        active := { b0 := b0, b1 := b1 }, status := .success, result := .nothing }) ∧
    (∀ e, ReadEnds s 1 2 (.error e) →
      exec .refresh s = .next { s.afterRead 1 2 with
        status := e.status, result := .info e, faulted := e.isFault })

/-- R147, R148 and R149: RDT, RDTH.HYST and RDTH.TOS read the two bytes of registers 0, 2 and 3 and return what TDEC
makes of them, the first as the upper one, with the active format. -/
def Obligations.TemperatureRegistersDecodeWithTheActiveFormat : Prop :=
  let reads (op : Byte) (i : Instr) (reg : Byte) : Prop :=
    (∀ p : Ports, decode ⟨op, p⟩ = .ok i) ∧
    ∀ s : State, s.faulted = false →
      (∀ u l, ReadEnds s reg 2 (.ok [u, l]) →
        exec i s = .next { s.afterRead reg 2 with
          status := .success, result := .temperature (tempDecode u l (formatOf s)) }) ∧
      (∀ e, ReadEnds s reg 2 (.error e) →
        exec i s = .next { s.afterRead reg 2 with
          status := e.status, result := .info e, faulted := e.isFault })
  reads 0x70 .rdt 0 ∧ reads 0x72 .rdthHyst 2 ∧ reads 0x73 .rdthTos 3

/-- R150 and R151: WRTH.HYST and WRTH.TOS encode T as TENC does, with the active format, and write the pair, upper byte
first, to registers 2 and 3; an operand that TENC refuses is reported before any bus transaction. -/
def Obligations.ThresholdWritesEncodeWithTheActiveFormat : Prop :=
  let writes (op : Byte) (mk : Binary64 → Instr) (reg : Byte) : Prop :=
    (∀ p : Ports, decode ⟨op, p⟩ = .ok (mk p.t)) ∧
    ∀ (s : State) (t : Binary64), s.faulted = false →
      (TencRefuses s.params.encOverflow t (formatOf s) →
        exec (mk t) s = .next { s with
          status := .invalidOperand, result := .info (.invalidOperand (.temperature t)) }) ∧
      (¬ TencRefuses s.params.encOverflow t (formatOf s) →
        let pair := [tencUpper t (formatOf s), tencLower t (formatOf s)]
        (s.writeOutcome = .ok →
          exec (mk t) s = .next { s.afterWrite reg pair with status := .success, result := .nothing }) ∧
        (s.writeOutcome = .ioError →
          exec (mk t) s = .next { s.afterWrite reg pair with
            status := .transportError, result := .info (.transportError reg) }))
  writes 0x7A .wrthHyst 2 ∧ writes 0x7B .wrthTos 3

/-- The PEC transition (R153): SET.PEC 1 then COMMIT frames the commit's own write and leaves PEC on; SET.PEC 0 leaves
the active PEC bit, so its COMMIT is framed as before, and PEC is off afterwards. -/
def Obligations.PecTransitionFramesTheCommit : Prop :=
  ∀ s : State, s.faulted = false → s.writeOutcome = .ok →
    (∃ s1 t, exec (.setPec 1) s = .next s1 ∧ exec .commit s1 = .next t ∧ t.active.b1[3] = true ∧
      t.history = s.history ++ [.write s.deviceAddress 1
        ([s.pending.b0, s.pending.b1 ||| 0x08] ++ [crc8 s.params.crc8Table
          [addrWriteByte s.deviceAddress, 1, s.pending.b0, s.pending.b1 ||| 0x08]]) .ok]) ∧
    (s.active.b1[3] = true →
      ∃ s1 t, exec (.setPec 0) s = .next s1 ∧ s1.active = s.active ∧ exec .commit s1 = .next t ∧
        t.active.b1[3] = false ∧
        t.history = s.history ++ [.write s.deviceAddress 1
          ([s.pending.b0, s.pending.b1 &&& 0xF7] ++ [crc8 s.params.crc8Table
            [addrWriteByte s.deviceAddress, 1, s.pending.b0, s.pending.b1 &&& 0xF7]]) .ok])

/-- The format hazard (R174): between SET.FMT and a COMMIT that succeeds, RDT ends as it would have without the setter;
after the COMMIT, the format it uses is the one that was set. -/
def Obligations.FormatTakesEffectAtCommit : Prop :=
  ∀ (s s1 t : State) (v : Int), s.faulted = false → (v = 0 ∨ v = 1) → exec (.setFmt v) s = .next s1 →
    (exec .rdt s = .next t → exec .rdt s1 = .next { t with pending := s1.pending }) ∧
    (s.writeOutcome = .ok → ∃ s2, exec .commit s1 = .next s2 ∧ formatOf s2 = BitVec.ofInt 1 v)

/-! ### Codes, addresses and assembly -/

/-- The STATUS codes of R154. -/
def Obligations.StatusCodesAreNumbered : Prop :=
  Status.success.code = 0 ∧
  (∀ f v, (Error.invalidFieldValue f v).status.code = 1) ∧
  (∀ r e c, (Error.checksumMismatch r e c).status.code = 2) ∧
  (∀ r, (Error.transportError r).status.code = 3) ∧
  (∀ op, (Error.illegalCommand op).status.code = 4) ∧
  (∀ o, (Error.invalidOperand o).status.code = 5) ∧
  (∀ r m k, (Error.busContractViolation r m k).status.code = 6)

/-- The CRC header bytes of R35: `DEVICE_ADDRESS << 1` in 0x90..0x9E and `(DEVICE_ADDRESS << 1) + 1` in 0x91..0x9F, for
every offset a block can be constructed with. -/
def Obligations.HeaderBytesAreShiftedAddresses : Prop :=
  ∀ (off : Nat) (p : Params) (s : State), State.construct off p = some s →
    (addrWriteByte s.deviceAddress).toNat = 2 * s.deviceAddress.toNat ∧
    (addrWriteByte s.deviceAddress).toNat = 0x90 + 2 * off ∧
    (addrReadByte s.deviceAddress).toNat = 0x91 + 2 * off

/-- The assembly examples of R66 and the pseudo-instructions of R67. The bits that -25.5 stands for are IEEE 754's, which
the model presumes (log entry 8). -/
def Obligations.AssemblyLinesAreTheirCommands : Prop :=
  assembleLine "XWR 1, [0x00, 0x40]" = .command (.xwr 1 [0x00, 0x40]) ∧
  assembleLine "XRD 0, 2" = .command (.xrd 0 2) ∧
  assembleLine "FINS.FQ 0x00, 3" = .command (.finsFq 0x00 3) ∧
  assembleLine "TENC -25.5, 0" = .command (.tenc 0xC039800000000000 0) ∧
  assembleLine "RDHYST" = .command .rdthHyst ∧ assembleLine "RDTOS" = .command .rdthTos ∧
  assembleLine "PECON" = .command (.setPec 1) ∧ assembleLine "PECOFF" = .command (.setPec 0) ∧
  ∀ t, (Pseudo.wrhyst t).expand = .wrthHyst t ∧ (Pseudo.wrtos t).expand = .wrthTos t
end

