-- ==== Sys2Proof/Laws/Binary64.lean ====
section
/-!
SUPPORT. What the integers of Machine/Binary64.lean are in terms of exact rational values (42_temperature.md R75): each
fact about a finite binary64 number that the codec's rules use.
-/

namespace Sys2Proof

theorem Binary64.expo_lt (t : Binary64) : t.expo < 2 ^ 11 := BitVec.isLt _

theorem Binary64.frac_lt (t : Binary64) : t.frac < 2 ^ 52 := BitVec.isLt _

/-- The 64 bits are the sign, the exponent and the fraction. -/
theorem Binary64.toNat_eq (t : Binary64) :
    t.toNat = (if t.sign then 2 ^ 63 else 0) + t.expo * 2 ^ 52 + t.frac := by
  have hs : t.sign = decide (2 ^ 63 ≤ t.toNat) := by
    show t[63] = _
    rw [← BitVec.getLsbD_eq_getElem, ← BitVec.msb_eq_getLsbD_last (x := t), BitVec.msb_eq_decide]
  have he : t.expo = t.toNat / 2 ^ 52 % 2 ^ 11 := by simp [Binary64.expo, Nat.shiftRight_eq_div_pow]
  have hf : t.frac = t.toNat % 2 ^ 52 := by simp [Binary64.frac]
  have hlt := t.isLt
  rw [hs, he, hf]
  simp only [decide_eq_true_eq]
  split <;> omega

/-- The bits of a number built from a sign, an exponent and a fraction are those. -/
theorem Binary64.of_parts (neg : Bool) (e f : Nat) (he : e < 2 ^ 11) (hf : f < 2 ^ 52) :
    let t : Binary64 := BitVec.ofNat 64 (e * 2 ^ 52 + f + if neg then 2 ^ 63 else 0)
    t.sign = neg ∧ t.expo = e ∧ t.frac = f := by
  have hlt : e * 2 ^ 52 + f + (if neg then 2 ^ 63 else 0) < 2 ^ 64 := by split <;> omega
  intro t
  have ht : t.toNat = e * 2 ^ 52 + f + if neg then 2 ^ 63 else 0 := by
    simp only [t, BitVec.toNat_ofNat]; exact Nat.mod_eq_of_lt hlt
  have h := t.toNat_eq
  have h1 := t.expo_lt
  have h2 := t.frac_lt
  cases neg <;> cases hs : t.sign <;> simp only [hs, ht, if_true, Bool.false_eq_true, if_false] at h <;>
    first
      | exact ⟨rfl, by omega, by omega⟩
      | (exfalso; omega)

/-- The significand is below `2^53`; it is 0 only in a zero. -/
theorem Binary64.signif_lt (t : Binary64) : t.signif < 2 ^ 53 := by
  have := t.frac_lt
  unfold Binary64.signif
  split <;> omega

theorem Binary64.signif_eq_zero (t : Binary64) : t.signif = 0 ↔ t.isZero = true := by
  unfold Binary64.signif Binary64.isZero
  split <;> simp_all

theorem Binary64.absRat_nonneg (t : Binary64) : 0 ≤ t.absRat := by
  unfold Binary64.absRat; positivity

theorem Binary64.absRat_eq_zero (t : Binary64) : t.absRat = 0 ↔ t.isZero = true := by
  rw [← t.signif_eq_zero]
  have h2 : (2 : ℚ) ^ ((t.scale : ℤ) - 1075) ≠ 0 := by positivity
  unfold Binary64.absRat
  simp [h2]

/-- `16 * |T|`, exactly: the significand scaled by a power of two. -/
theorem Binary64.sixteen_absRat (t : Binary64) : 16 * t.absRat = (t.signif : ℚ) * 2 ^ ((t.scale : ℤ) - 1071) := by
  unfold Binary64.absRat
  rw [show ((t.scale : ℤ) - 1071) = (t.scale - 1075) + 4 by ring, zpow_add₀ (by norm_num)]
  norm_num
  ring

/-- `times16Floor` is the floor of the exact product. -/
theorem Binary64.times16Floor_eq (t : Binary64) : t.times16Floor = ⌊16 * t.absRat⌋₊ := by
  rw [t.sixteen_absRat]
  unfold Binary64.times16Floor
  split
  · rename_i h
    rw [show ((t.scale : ℤ) - 1071) = ((t.scale - 1071 : ℕ) : ℤ) by omega, zpow_natCast,
      show (t.signif : ℚ) * 2 ^ (t.scale - 1071) = ((t.signif * 2 ^ (t.scale - 1071) : ℕ) : ℚ) by push_cast; ring,
      Nat.floor_natCast, Nat.shiftLeft_eq]
  · rename_i h
    rw [show ((t.scale : ℤ) - 1071) = -((1071 - t.scale : ℕ) : ℤ) by omega, zpow_neg, zpow_natCast,
      ← div_eq_mul_inv, show ((2 : ℚ) ^ (1071 - t.scale)) = ((2 ^ (1071 - t.scale) : ℕ) : ℚ) by push_cast; ring,
      Nat.floor_div_natCast, Nat.floor_natCast, Nat.shiftRight_eq_div_pow]

/-- `times16Overflows` says that the exact product is above the largest finite binary64 value. -/
theorem Binary64.times16Overflows_iff (t : Binary64) :
    t.times16Overflows = true ↔ 16 * t.absRat > (2 - 1 / 2 ^ 52) * 2 ^ 1023 := by
  have hmax : ((2 : ℚ) - 1 / 2 ^ 52) * 2 ^ 1023 = (2 ^ 53 - 1) * 2 ^ (971 : ℤ) := by
    rw [show (2 : ℚ) ^ (971 : ℤ) = 2 ^ 971 from zpow_natCast 2 971, show (1023 : ℕ) = 52 + 971 from rfl, pow_add]
    generalize (2 : ℚ) ^ 971 = x
    ring
  rw [t.sixteen_absRat, hmax]
  unfold Binary64.times16Overflows
  rw [decide_eq_true_iff]
  constructor
  · intro h
    have h0 : t.expo ≠ 0 := by omega
    have hs : (2 ^ 52 : ℚ) ≤ t.signif := by
      unfold Binary64.signif; rw [if_neg h0]; push_cast; linarith [(Nat.cast_nonneg t.frac : (0 : ℚ) ≤ _)]
    have he : (2 : ℚ) ^ (972 : ℤ) ≤ 2 ^ ((t.scale : ℤ) - 1071) := by
      refine zpow_le_zpow_right₀ (by norm_num) ?_
      unfold Binary64.scale; rw [if_neg h0]; omega
    calc ((2 : ℚ) ^ 53 - 1) * 2 ^ (971 : ℤ) < 2 ^ 52 * 2 ^ (972 : ℤ) := by
          rw [show (972 : ℤ) = 971 + 1 by norm_num, zpow_add₀ (by norm_num)]
          have : (0 : ℚ) < 2 ^ (971 : ℤ) := by positivity
          generalize (2 : ℚ) ^ (971 : ℤ) = x at this
          rw [zpow_one]
          linarith
      _ ≤ _ := mul_le_mul hs he (by positivity) (by positivity)
  · intro h
    by_contra hn
    refine absurd h (not_lt.mpr (mul_le_mul ?_ ?_ (by positivity) (by norm_num)))
    · have := t.signif_lt
      have : (t.signif : ℚ) ≤ ((2 ^ 53 - 1 : ℕ) : ℚ) := by exact_mod_cast (by omega : t.signif ≤ 2 ^ 53 - 1)
      push_cast at this
      linarith
    · refine zpow_le_zpow_right₀ (by norm_num) ?_
      unfold Binary64.scale
      split <;> omega

/-- For a finite number, `isNeg` is `T < 0` on the exact value. -/
theorem Binary64.isNeg_iff (t : Binary64) (h : t.isFinite = true) : t.isNeg = true ↔ t.toRat < 0 := by
  have hn : t.isNaN = false := by simp_all [Binary64.isFinite, Binary64.isNaN]
  have hz := t.absRat_eq_zero
  have hp := t.absRat_nonneg
  unfold Binary64.isNeg Binary64.toRat
  rw [hn]
  cases t.sign
  · simpa using hp
  · cases hzz : t.isZero
    · have : t.absRat ≠ 0 := fun h0 => by rw [hz, hzz] at h0; cases h0
      simpa using lt_of_le_of_ne hp (Ne.symm this)
    · simp [hz.mpr hzz]

/-- `ofSixteenths` is a finite number with the sign asked for and the exact magnitude `M / 16` (R75, R81). -/
theorem Binary64.ofSixteenths_spec (neg : Bool) (m : Nat) (hm : m < 2 ^ 53) :
    (Binary64.ofSixteenths neg m).isFinite = true ∧ (Binary64.ofSixteenths neg m).sign = neg ∧
      (Binary64.ofSixteenths neg m).absRat = (m : ℚ) / 16 := by
  unfold Binary64.ofSixteenths
  by_cases h0 : m = 0
  · obtain ⟨h1, h2, h3⟩ := Binary64.of_parts neg 0 0 (by norm_num) (by norm_num)
    simp only [Nat.zero_mul, Nat.add_zero] at h1 h2 h3
    simp only [h0, if_true]
    refine ⟨by simp only [Binary64.isFinite, h2]; rfl, h1, ?_⟩
    simp only [Binary64.absRat, Binary64.signif, h2, h3, if_true]
    simp
  · have hlo : 2 ^ m.log2 ≤ m := Nat.log2_self_le h0
    have hhi : m < 2 ^ (m.log2 + 1) := Nat.lt_log2_self
    have hk : m.log2 ≤ 52 := by
      by_contra hk
      exact absurd (lt_of_le_of_lt (le_trans (Nat.pow_le_pow_right (by norm_num) (by omega)) hlo) hm) (lt_irrefl _)
    have hpow : 2 ^ m.log2 * 2 ^ (52 - m.log2) = 2 ^ 52 := by rw [← Nat.pow_add]; congr 1; omega
    have hfrac : (m - 2 ^ m.log2) * 2 ^ (52 - m.log2) < 2 ^ 52 := by
      rw [← hpow]
      refine Nat.mul_lt_mul_of_pos_right ?_ (by positivity)
      rw [Nat.pow_succ] at hhi
      omega
    obtain ⟨h1, h2, h3⟩ := Binary64.of_parts neg (1019 + m.log2) _ (by omega) hfrac
    simp only [h0, if_false]
    refine ⟨by simp only [Binary64.isFinite, h2, bne_iff_ne, ne_eq]; omega, h1, ?_⟩
    have hne : (1019 + m.log2) ≠ 0 := by omega
    have hsig : 2 ^ 52 + (m - 2 ^ m.log2) * 2 ^ (52 - m.log2) = m * 2 ^ (52 - m.log2) := by
      rw [← hpow, ← Nat.add_mul]; congr 1; omega
    simp only [Binary64.absRat, Binary64.signif, Binary64.scale, h2, h3, if_neg hne, hsig]
    push_cast
    rw [show ((1019 + m.log2 : ℤ) - 1075) = -((52 - m.log2 : ℕ) : ℤ) - 4 by omega, zpow_sub₀ (by norm_num), zpow_neg,
      zpow_natCast]
    have : (2 : ℚ) ^ (52 - m.log2) ≠ 0 := by positivity
    field_simp
    norm_num

end Sys2Proof
end

