-- ==== Sys2Proof/Laws/State.lean ====
section
/-! SUPPORT. What each state update does to each field, true by rfl: the lemmas later proofs rewrite with instead of
unfolding an update. -/

namespace Sys2Proof.Machine

/-! ### finish -/

@[simp] theorem finish_pending (r : Result) (s : State) :
    (finish r s).pending = s.pending := rfl

@[simp] theorem finish_active (r : Result) (s : State) :
    (finish r s).active = s.active := rfl

@[simp] theorem finish_faulted (r : Result) (s : State) :
    (finish r s).faulted = s.faulted := rfl

@[simp] theorem finish_history (r : Result) (s : State) :
    (finish r s).history = s.history := rfl

@[simp] theorem finish_deviceAddress (r : Result) (s : State) :
    (finish r s).deviceAddress = s.deviceAddress := rfl

@[simp] theorem finish_status (r : Result) (s : State) :
    (finish r s).status = .success := rfl

@[simp] theorem finish_result (r : Result) (s : State) :
    (finish r s).result = r := rfl

@[simp] theorem finish_params (r : Result) (s : State) :
    (finish r s).params = s.params := rfl

@[simp] theorem finish_commands (r : Result) (s : State) :
    (finish r s).commands = s.commands := rfl

@[simp] theorem finish_writeAnswers (r : Result) (s : State) :
    (finish r s).writeAnswers = s.writeAnswers := rfl

@[simp] theorem finish_readAnswers (r : Result) (s : State) :
    (finish r s).readAnswers = s.readAnswers := rfl

@[simp] theorem finish_busDraws (r : Result) (s : State) :
    (finish r s).busDraws = s.busDraws := rfl

/-! ### raise -/

@[simp] theorem raise_pending (e : Error) (s : State) :
    (raise e s).pending = s.pending := rfl

@[simp] theorem raise_active (e : Error) (s : State) :
    (raise e s).active = s.active := rfl

@[simp] theorem raise_faulted (e : Error) (s : State) :
    (raise e s).faulted = (s.faulted || e.isFault) := rfl

@[simp] theorem raise_history (e : Error) (s : State) :
    (raise e s).history = s.history := rfl

@[simp] theorem raise_deviceAddress (e : Error) (s : State) :
    (raise e s).deviceAddress = s.deviceAddress := rfl

@[simp] theorem raise_status (e : Error) (s : State) :
    (raise e s).status = e.status := rfl

@[simp] theorem raise_result (e : Error) (s : State) :
    (raise e s).result = .info e := rfl

@[simp] theorem raise_params (e : Error) (s : State) :
    (raise e s).params = s.params := rfl

@[simp] theorem raise_commands (e : Error) (s : State) :
    (raise e s).commands = s.commands := rfl

@[simp] theorem raise_writeAnswers (e : Error) (s : State) :
    (raise e s).writeAnswers = s.writeAnswers := rfl

@[simp] theorem raise_readAnswers (e : Error) (s : State) :
    (raise e s).readAnswers = s.readAnswers := rfl

@[simp] theorem raise_busDraws (e : Error) (s : State) :
    (raise e s).busDraws = s.busDraws := rfl

/-! ### busWrite -/

@[simp] theorem busWrite_pending (r : Byte) (data : List Byte) (s : State) :
    (busWrite r data s).2.pending = s.pending := rfl

@[simp] theorem busWrite_active (r : Byte) (data : List Byte) (s : State) :
    (busWrite r data s).2.active = s.active := rfl

@[simp] theorem busWrite_faulted (r : Byte) (data : List Byte) (s : State) :
    (busWrite r data s).2.faulted = s.faulted := rfl

@[simp] theorem busWrite_history (r : Byte) (data : List Byte) (s : State) :
    (busWrite r data s).2.history = s.history ++ [.write s.deviceAddress r data s.writeOutcome] := rfl

@[simp] theorem busWrite_deviceAddress (r : Byte) (data : List Byte) (s : State) :
    (busWrite r data s).2.deviceAddress = s.deviceAddress := rfl

@[simp] theorem busWrite_status (r : Byte) (data : List Byte) (s : State) :
    (busWrite r data s).2.status = s.status := rfl

@[simp] theorem busWrite_result (r : Byte) (data : List Byte) (s : State) :
    (busWrite r data s).2.result = s.result := rfl

@[simp] theorem busWrite_params (r : Byte) (data : List Byte) (s : State) :
    (busWrite r data s).2.params = s.params := rfl

@[simp] theorem busWrite_commands (r : Byte) (data : List Byte) (s : State) :
    (busWrite r data s).2.commands = s.commands := rfl

@[simp] theorem busWrite_writeAnswers (r : Byte) (data : List Byte) (s : State) :
    (busWrite r data s).2.writeAnswers = s.writeAnswers.tail := rfl

@[simp] theorem busWrite_readAnswers (r : Byte) (data : List Byte) (s : State) :
    (busWrite r data s).2.readAnswers = s.readAnswers := rfl

@[simp] theorem busWrite_busDraws (r : Byte) (data : List Byte) (s : State) :
    (busWrite r data s).2.busDraws = s.busDraws + 1 := rfl

/-! ### busRead -/

@[simp] theorem busRead_pending (r : Byte) (n : Nat) (s : State) :
    (busRead r n s).2.pending = s.pending := rfl

@[simp] theorem busRead_active (r : Byte) (n : Nat) (s : State) :
    (busRead r n s).2.active = s.active := rfl

@[simp] theorem busRead_faulted (r : Byte) (n : Nat) (s : State) :
    (busRead r n s).2.faulted = s.faulted := rfl

@[simp] theorem busRead_history (r : Byte) (n : Nat) (s : State) :
    (busRead r n s).2.history = s.history ++ [.read s.deviceAddress r n (s.readOutcome n)] := rfl

@[simp] theorem busRead_deviceAddress (r : Byte) (n : Nat) (s : State) :
    (busRead r n s).2.deviceAddress = s.deviceAddress := rfl

@[simp] theorem busRead_status (r : Byte) (n : Nat) (s : State) :
    (busRead r n s).2.status = s.status := rfl

@[simp] theorem busRead_result (r : Byte) (n : Nat) (s : State) :
    (busRead r n s).2.result = s.result := rfl

@[simp] theorem busRead_params (r : Byte) (n : Nat) (s : State) :
    (busRead r n s).2.params = s.params := rfl

@[simp] theorem busRead_commands (r : Byte) (n : Nat) (s : State) :
    (busRead r n s).2.commands = s.commands := rfl

@[simp] theorem busRead_writeAnswers (r : Byte) (n : Nat) (s : State) :
    (busRead r n s).2.writeAnswers = s.writeAnswers := rfl

@[simp] theorem busRead_readAnswers (r : Byte) (n : Nat) (s : State) :
    (busRead r n s).2.readAnswers = s.readAnswers.tail := rfl

@[simp] theorem busRead_busDraws (r : Byte) (n : Nat) (s : State) :
    (busRead r n s).2.busDraws = s.busDraws + 1 := rfl

/-! ### afterWrite -/

@[simp] theorem afterWrite_pending (reg : Byte) (data : List Byte) (s : State) :
    (s.afterWrite reg data).pending = s.pending := rfl

@[simp] theorem afterWrite_active (reg : Byte) (data : List Byte) (s : State) :
    (s.afterWrite reg data).active = s.active := rfl

@[simp] theorem afterWrite_faulted (reg : Byte) (data : List Byte) (s : State) :
    (s.afterWrite reg data).faulted = s.faulted := rfl

@[simp] theorem afterWrite_history (reg : Byte) (data : List Byte) (s : State) :
    (s.afterWrite reg data).history = s.history ++ [.write s.deviceAddress reg (wireData s reg data) s.writeOutcome] := rfl

@[simp] theorem afterWrite_deviceAddress (reg : Byte) (data : List Byte) (s : State) :
    (s.afterWrite reg data).deviceAddress = s.deviceAddress := rfl

@[simp] theorem afterWrite_status (reg : Byte) (data : List Byte) (s : State) :
    (s.afterWrite reg data).status = s.status := rfl

@[simp] theorem afterWrite_result (reg : Byte) (data : List Byte) (s : State) :
    (s.afterWrite reg data).result = s.result := rfl

@[simp] theorem afterWrite_params (reg : Byte) (data : List Byte) (s : State) :
    (s.afterWrite reg data).params = s.params := rfl

@[simp] theorem afterWrite_commands (reg : Byte) (data : List Byte) (s : State) :
    (s.afterWrite reg data).commands = s.commands := rfl

@[simp] theorem afterWrite_writeAnswers (reg : Byte) (data : List Byte) (s : State) :
    (s.afterWrite reg data).writeAnswers = s.writeAnswers.tail := rfl

@[simp] theorem afterWrite_readAnswers (reg : Byte) (data : List Byte) (s : State) :
    (s.afterWrite reg data).readAnswers = s.readAnswers := rfl

@[simp] theorem afterWrite_busDraws (reg : Byte) (data : List Byte) (s : State) :
    (s.afterWrite reg data).busDraws = s.busDraws + 1 := rfl

/-! ### afterRead -/

@[simp] theorem afterRead_pending (reg : Byte) (n : Nat) (s : State) :
    (s.afterRead reg n).pending = s.pending := rfl

@[simp] theorem afterRead_active (reg : Byte) (n : Nat) (s : State) :
    (s.afterRead reg n).active = s.active := rfl

@[simp] theorem afterRead_faulted (reg : Byte) (n : Nat) (s : State) :
    (s.afterRead reg n).faulted = s.faulted := rfl

@[simp] theorem afterRead_history (reg : Byte) (n : Nat) (s : State) :
    (s.afterRead reg n).history = s.history ++ [.read s.deviceAddress reg (wireLength s n) (s.readOutcome (wireLength s n))] := rfl

@[simp] theorem afterRead_deviceAddress (reg : Byte) (n : Nat) (s : State) :
    (s.afterRead reg n).deviceAddress = s.deviceAddress := rfl

@[simp] theorem afterRead_status (reg : Byte) (n : Nat) (s : State) :
    (s.afterRead reg n).status = s.status := rfl

@[simp] theorem afterRead_result (reg : Byte) (n : Nat) (s : State) :
    (s.afterRead reg n).result = s.result := rfl

@[simp] theorem afterRead_params (reg : Byte) (n : Nat) (s : State) :
    (s.afterRead reg n).params = s.params := rfl

@[simp] theorem afterRead_commands (reg : Byte) (n : Nat) (s : State) :
    (s.afterRead reg n).commands = s.commands := rfl

@[simp] theorem afterRead_writeAnswers (reg : Byte) (n : Nat) (s : State) :
    (s.afterRead reg n).writeAnswers = s.writeAnswers := rfl

@[simp] theorem afterRead_readAnswers (reg : Byte) (n : Nat) (s : State) :
    (s.afterRead reg n).readAnswers = s.readAnswers.tail := rfl

@[simp] theorem afterRead_busDraws (reg : Byte) (n : Nat) (s : State) :
    (s.afterRead reg n).busDraws = s.busDraws + 1 := rfl

/-! ### The outcome drawn does not depend on the copies, the ports, the history or the commands -/

@[simp] theorem busWrite_outcome (r : Byte) (data : List Byte) (s : State) : (busWrite r data s).1 = s.writeOutcome := rfl

@[simp] theorem busRead_outcome (r : Byte) (n : Nat) (s : State) : (busRead r n s).1 = s.readOutcome n := rfl

@[simp] theorem finish_writeOutcome (r : Result) (s : State) : (finish r s).writeOutcome = s.writeOutcome := rfl

@[simp] theorem finish_readOutcome (r : Result) (n : Nat) (s : State) :
    (finish r s).readOutcome n = s.readOutcome n := rfl

@[simp] theorem withHistory_writeOutcome (h : List BusEvent) (s : State) :
    ({ s with history := h } : State).writeOutcome = s.writeOutcome := rfl

@[simp] theorem withHistory_readOutcome (h : List BusEvent) (n : Nat) (s : State) :
    ({ s with history := h } : State).readOutcome n = s.readOutcome n := rfl

@[simp] theorem withPending_writeOutcome (c : ConfigWord) (s : State) :
    ({ s with pending := c } : State).writeOutcome = s.writeOutcome := rfl

@[simp] theorem withPending_readOutcome (c : ConfigWord) (n : Nat) (s : State) :
    ({ s with pending := c } : State).readOutcome n = s.readOutcome n := rfl

@[simp] theorem withActive_writeOutcome (c : ConfigWord) (s : State) :
    ({ s with active := c } : State).writeOutcome = s.writeOutcome := rfl

@[simp] theorem withActive_readOutcome (c : ConfigWord) (n : Nat) (s : State) :
    ({ s with active := c } : State).readOutcome n = s.readOutcome n := rfl

end Sys2Proof.Machine
end

