-- ==== Sys2Proof/Laws/Ops.lean ====
section
/-! SUPPORT. What each shared operation can do, said once. -/

namespace Sys2Proof.Machine

/-! ### Ending a command -/

@[simp] theorem command_of_faulted {body : State → State} {s : State} (h : s.faulted = true) :
    command body s = .fault .faulted := by simp [command, h]

@[simp] theorem command_of_running {body : State → State} {s : State} (h : s.faulted = false) :
    command body s = .next (body s) := by simp [command, h]

/-- A command answers a next state exactly when the block is not faulted, and then the one its body gives. -/
theorem command_next_iff {body : State → State} {s t : State} :
    command body s = .next t ↔ s.faulted = false ∧ t = body s := by
  cases h : s.faulted <;> simp [command, h, eq_comm]

@[simp] theorem answer_ok (r : Result) (s : State) : answer (.ok r) s = finish r s := rfl

@[simp] theorem answer_error (e : Error) (s : State) : answer (.error e) s = raise e s := rfl

/-- An answer writes the two ports and, for a broken length contract, the fault mark. -/
theorem answer_eq (q : Except Error Result) (s : State) :
    answer q s = { s with
      status := (answer q s).status, result := (answer q s).result, faulted := (answer q s).faulted } := by
  cases q <;> rfl

/-- An error of a running block, no contract broken, writes the two ports alone. -/
theorem raise_of_running {e : Error} {s : State} (h : s.faulted = false) (he : e.isFault = false) :
    raise e s = { s with status := e.status, result := .info e } := by
  cases s; simp_all [raise]

/-! ### The fields -/

/-- The domain check, as the inequality it is (43_config_fields.md R88). -/
theorem inDomain_iff (f : FieldId) (v : Int) : f.inDomain v = true ↔ 0 ≤ v ∧ v ≤ (f.dmax : Int) := by
  simp [FieldId.inDomain]

/-- A value in some field's domain is one of four. -/
theorem inDomain_cases {f : FieldId} {v : Int} (h : f.inDomain v = true) : v = 0 ∨ v = 1 ∨ v = 2 ∨ v = 3 := by
  have h := (inDomain_iff f v).mp h
  have : f.dmax ≤ 3 := by cases f <;> decide
  omega

/-- A field insert, by the domain check. -/
theorem finsCommand_eq (f : FieldId) (b : Byte) (v : Int) (s : State) :
    finsCommand f b v s =
      if f.inDomain v then finish (.byte (f.insert b v)) s else raise (.invalidFieldValue f v) s := by
  unfold finsCommand fieldInsert
  cases f.inDomain v <;> rfl

/-- A generic setter, by the domain check. -/
theorem setCommand_eq (f : FieldId) (v : Int) (s : State) :
    setCommand f v s =
      if f.inDomain v then
        finish .nothing { s with pending := s.pending.withByteOf f (f.insert (s.pending.byteOf f) v) }
      else raise (.invalidFieldValue f v) s := by
  unfold setCommand fieldInsert
  cases f.inDomain v <;> rfl

/-! ### The mode bits (10_state.md R28) -/

@[simp] theorem pecOn_eq (s : State) : s.pecOn = s.active.b1[3] := by
  have key : ∀ b : Byte, (FieldId.extract .pec b == 1) = b[3] := by decide
  exact key _

@[simp] theorem activeFormat_eq (s : State) : s.activeFormat = formatOf s := by
  have key : ∀ b : Byte, BitVec.ofNat 1 (FieldId.extract .format b) = if b[7] then 1 else 0 := by decide
  exact key _

/-! ### Register transactions -/

/-- A register write: one `BusWrite` of the wire bytes, and TransportError if it failed (44_transactions.md R143). -/
theorem writeRegister_eq (reg : Byte) (data : List Byte) (s : State) :
    writeRegister reg data s =
      (match s.writeOutcome with
        | .ok => .ok ()
        | .ioError => .error (.transportError reg), s.afterWrite reg data) := by
  simp only [writeRegister, pecOn_eq, busWrite_outcome]
  cases s.writeOutcome <;> rfl

/-- The read check on a frame of data and one more byte (R140). -/
theorem pecCheck_append (s : State) (reg : Byte) (data : List Byte) (c : Byte) :
    pecCheck s reg (data ++ [c]) =
      if frameCrc s reg data = c then .ok data else .error (.checksumMismatch reg (frameCrc s reg data) c) := by
  have h : readCrc s reg data = frameCrc s reg data := rfl
  simp only [pecCheck, List.length_append, List.length_singleton, Nat.add_sub_cancel, List.take_left', h]
  simp

/-- A register read leaves the state the statements call `afterRead`, and judges the answer by `checkAnswer`. -/
theorem readRegister_eq (reg : Byte) (n : Nat) (s : State) :
    readRegister reg n s =
      (checkAnswer s reg (wireLength s n) (s.readOutcome (wireLength s n)), s.afterRead reg n) := by
  simp only [readRegister, pecOn_eq]; rfl

/-- A list of `n + 1` bytes is `n` bytes and a last one. -/
theorem exists_append_of_length_succ {rx : List Byte} {n : Nat} (h : rx.length = n + 1) :
    ∃ data c, rx = data ++ [c] ∧ data.length = n := by
  refine ⟨rx.dropLast, rx.getLast (by intro h0; simp [h0] at h), ?_, by simp [h]⟩
  exact (List.dropLast_append_getLast _).symm

/-- The answer to a register read is judged as R144 says: the function agrees with the five ends. -/
theorem checkAnswer_iff (s : State) (reg : Byte) (n : Nat) (r : Except Error (List Byte)) :
    checkAnswer s reg (wireLength s n) (s.readOutcome (wireLength s n)) = r ↔ ReadEnds s reg n r := by
  constructor
  · rintro rfl
    cases ho : s.readOutcome (wireLength s n) with
    | ioError => exact .transport ho
    | bytes rx =>
      by_cases hl : rx.length = wireLength s n
      · cases hp : s.active.b1[3] with
        | false =>
          have : rx.length = n := by simpa [wireLength, hp] using hl
          simpa [checkAnswer, hl, hp] using ReadEnds.plain rx hp ho this
        | true =>
          obtain ⟨data, c, rfl, hd⟩ := exists_append_of_length_succ (n := n) (by simpa [wireLength, hp] using hl)
          by_cases hc : frameCrc s reg data = c
          · subst hc
            simpa [checkAnswer, hl, hp, pecCheck_append] using ReadEnds.framed data hp ho hd
          · simpa [checkAnswer, hl, hp, pecCheck_append, hc] using
              ReadEnds.mismatch data c hp ho hd (fun h => hc h.symm)
      · simpa [checkAnswer, hl] using ReadEnds.length rx ho hl
  · intro h
    cases h with
    | transport h => simp [checkAnswer, h]
    | length rx h hl => simp [checkAnswer, h, hl]
    | mismatch data c hp h hl hc =>
      have hlen : (data ++ [c]).length = wireLength s n := by simp [wireLength, hp, hl]
      simp only [checkAnswer, h, hlen, pecOn_eq, hp, if_true, pecCheck_append]
      simp [Ne.symm hc]
    | framed data hp h hl =>
      have hlen : (data ++ [frameCrc s reg data]).length = wireLength s n := by simp [wireLength, hp, hl]
      simp only [checkAnswer, h, hlen, pecOn_eq, hp, if_true, pecCheck_append]
    | plain data hp h hl =>
      have hlen : data.length = wireLength s n := by simp [wireLength, hp, hl]
      simp [checkAnswer, h, hlen, hp]

/-- The data a register read delivers has the length asked for. -/
theorem ReadEnds.length_eq {s : State} {reg : Byte} {n : Nat} {data : List Byte}
    (h : ReadEnds s reg n (.ok data)) : data.length = n := by
  cases h <;> assumption

/-- A read that delivered data was answered with the length asked for. -/
theorem ReadEnds.answer_of_ok {s : State} {reg : Byte} {n : Nat} {data : List Byte}
    (h : ReadEnds s reg n (.ok data)) :
    ∃ xs, s.readOutcome (wireLength s n) = .bytes xs ∧ xs.length = wireLength s n := by
  cases h with
  | framed hp h hl => exact ⟨_, hl, by simp_all [wireLength]⟩
  | plain hp h hl => exact ⟨_, hl, by simp_all [wireLength]⟩

/-- A read that ended with an error raised a fault exactly when the answer had another length than was asked for. -/
theorem ReadEnds.isFault_iff {s : State} {reg : Byte} {n : Nat} {e : Error} (h : ReadEnds s reg n (.error e)) :
    e.isFault = true ↔ ∃ xs, s.readOutcome (wireLength s n) = .bytes xs ∧ xs.length ≠ wireLength s n := by
  cases h with
  | transport h => simp [Error.isFault, h]
  | length rx h hl => simp [Error.isFault, h, hl]
  | mismatch data c hp h hl hc =>
    have hw : wireLength s n = n + 1 := by simp [wireLength, hp]
    rw [hw] at h
    simp [Error.isFault, h, hl, hw]

/-- Only a broken length contract sets the fault mark (60_exceptions.md R160). -/
theorem isFault_iff (e : Error) : e.isFault = true ↔ ∃ reg m k, e = .busContractViolation reg m k := by
  cases e <;> simp [Error.isFault]

end Sys2Proof.Machine
end

