-- ==== Sys2Proof/Laws/Codec.lean ====
section
/-!
SUPPORT. The codec's functions in plain arithmetic (42_temperature.md R78, R81): quotients and remainders in place of
shifts and masks, exact rationals in place of the significand's integers.
-/

namespace Sys2Proof.Machine

theorem pOf_cases (f : Bit) : pOf f = 3 ∨ pOf f = 4 := by unfold pOf; split <;> simp

/-- The byte pair of a magnitude and a sign (R78). -/
theorem magnitudePair_eq (f : Bit) (neg : Bool) (d : Nat) :
    magnitudePair f neg d =
      (BitVec.ofNat 8 (d / 2 ^ (8 - pOf f) % 128 + if neg then 128 else 0), BitVec.ofNat 8 (d * 2 ^ pOf f % 256)) := by
  have h7 : ∀ x : Nat, x &&& 0x7F = x % 128 := fun x => Nat.and_two_pow_sub_one_eq_mod x 7
  have h8 : ∀ x : Nat, x &&& 0xFF = x % 256 := fun x => Nat.and_two_pow_sub_one_eq_mod x 8
  have hs : ∀ x : Nat, BitVec.ofNat 8 (x % 128) ||| 0x80 = BitVec.ofNat 8 (x % 128 + 128) := by
    intro x
    have : x % 128 < 128 := Nat.mod_lt _ (by decide)
    generalize x % 128 = y at this
    revert y
    decide
  unfold magnitudePair
  rw [h7, h8, Nat.shiftRight_eq_div_pow, Nat.shiftLeft_eq]
  cases neg
  · rfl
  · simp only [if_true, hs]; rfl

/-- The magnitude of a byte pair (R81). -/
theorem pairMagnitude_eq (u l : Byte) (f : Bit) :
    pairMagnitude u l f = u.toNat % 128 * 2 ^ (8 - pOf f) + l.toNat / 2 ^ pOf f := by
  have h7 : (u &&& 0x7F).toNat = u.toNat % 128 := by
    rw [BitVec.toNat_and]; exact Nat.and_two_pow_sub_one_eq_mod _ 7
  unfold pairMagnitude
  rw [h7, Nat.shiftRight_eq_div_pow, Nat.shiftLeft_eq]
  rfl

/-- It fits the format: `0 <= M <= 2^(15-p) - 1` (R81). -/
theorem pairMagnitude_lt (u l : Byte) (f : Bit) : pairMagnitude u l f < 2 ^ (15 - pOf f) := by
  rw [pairMagnitude_eq]
  have hu : u.toNat % 128 < 128 := Nat.mod_lt _ (by decide)
  have hl := l.isLt
  rcases pOf_cases f with h | h <;> rw [h] <;> norm_num <;> omega

/-- What `tempRejected` decides. -/
theorem tempRejected_iff (policy : EncOverflow) (t : Binary64) (f : Bit) :
    tempRejected policy t f = true ↔ TencRefuses policy t f := by
  have hp : (policy == EncOverflow.fault) = true ↔ policy = .fault := beq_iff_eq
  have hm : maxMagnitude f = 2 ^ (15 - pOf f) - 1 := rfl
  unfold tempRejected TencRefuses sixteenths
  rw [t.times16Floor_eq, hm, Bool.or_eq_true, Bool.or_eq_true, t.times16Overflows_iff]
  simp only [Bool.not_eq_true', Bool.and_eq_true, decide_eq_true_eq, hp, or_assoc]

/-- What `tempEncode` gives (R78). -/
theorem tempEncode_eq (policy : EncOverflow) (t : Binary64) (f : Bit) :
    (TencRefuses policy t f → tempEncode policy t f = .error (.invalidOperand (.temperature t))) ∧
      (¬ TencRefuses policy t f → tempEncode policy t f = .ok (tencUpper t f, tencLower t f)) := by
  rw [← tempRejected_iff]
  unfold tempEncode
  refine ⟨fun h => if_pos h, fun h => ?_⟩
  have hfin : t.isFinite = true := by
    by_contra hc
    exact h (by simp [tempRejected, hc])
  rw [if_neg h, magnitudePair_eq, t.times16Floor_eq]
  simp only [t.isNeg_iff hfin]
  rfl

end Sys2Proof.Machine
end

