-- ==== Sys2Proof/Laws/Exec.lean ====
section
/-! SUPPORT. What a command can do, said once: `exec_effect`. Every frame and invariant follows from it. -/

namespace Sys2Proof.Machine

/-- The ways a command of a running block ends: the state it leaves, and when. -/
inductive Effect (i : Instr) (s : State) : State → Prop where
  /-- a command that only computes ends with a result or an error, and writes the ports alone -/
  | report (q : Except Error Result) (hb : i.isBus = false) (hs : i.isSetter = false)
      (hq : ∀ e, q = .error e → e.isFault = false) (hr : ∀ e, q ≠ .ok (.info e)) : Effect i s (answer q s)
  /-- a setter with a value in the domain -/
  | set (f : FieldId) (v : Int) (hi : i = .setField f v) (hd : f.inDomain v = true) :
      Effect i s (finish .nothing { (if f = .pec then enableActivePec v s else s) with
        pending := s.pending.withByteOf f (f.insert (s.pending.byteOf f) v) })
  /-- a setter with a value outside it -/
  | setRejected (f : FieldId) (v : Int) (hi : i = .setField f v) (hd : f.inDomain v = false) :
      Effect i s (raise (.invalidFieldValue f v) s)
  /-- a threshold write whose operand TENC refuses -/
  | operandRejected (t : Binary64) (hi : i = .wrthHyst t ∨ i = .wrthTos t) :
      Effect i s (raise (.invalidOperand (.temperature t)) s)
  /-- a register write that succeeded -/
  | wrote (reg : Byte) (data : List Byte) (hi : i.isBus = true) (hr : i.wellFormed = true → reg.toNat ≤ 3)
      (ho : s.writeOutcome = .ok) : Effect i s (finish .nothing (s.afterWrite reg data))
  /-- COMMIT, its write having succeeded -/
  | committed (hi : i = .commit) (ho : s.writeOutcome = .ok) :
      Effect i s (finish .nothing { s.afterWrite 1 [s.pending.b0, s.pending.b1] with active := s.pending })
  /-- a register write that failed -/
  | writeFailed (reg : Byte) (data : List Byte) (hi : i.isBus = true) (hr : i.wellFormed = true → reg.toNat ≤ 3)
      (ho : s.writeOutcome = .ioError) : Effect i s (raise (.transportError reg) (s.afterWrite reg data))
  /-- a register read that delivered data -/
  | delivered (reg : Byte) (n : Nat) (data : List Byte) (r : Result) (hi : i.isBus = true)
      (hr : i.wellFormed = true → reg.toNat ≤ 3) (hn : ∀ e, r ≠ .info e) (ho : ReadEnds s reg n (.ok data)) :
      Effect i s (finish r (s.afterRead reg n))
  /-- REFRESH, its read having delivered the two bytes -/
  | refreshed (b0 b1 : Byte) (hi : i = .refresh) (ho : ReadEnds s 1 2 (.ok [b0, b1])) :
      Effect i s (finish .nothing { s.afterRead 1 2 with active := { b0 := b0, b1 := b1 } })
  /-- a register read that ended with an error -/
  | readFailed (reg : Byte) (n : Nat) (e : Error) (hi : i.isBus = true)
      (hr : i.wellFormed = true → reg.toNat ≤ 3) (ho : ReadEnds s reg n (.error e)) :
      Effect i s (raise e (s.afterRead reg n))

/-! ### The shared bodies -/

/-- A setter is one of the eight, by its field. -/
theorem isSetter_iff (i : Instr) : i.isSetter = true ↔ ∃ f v, i = .setField f v := by
  constructor
  · intro h
    cases i with
    | setShdn v => exact ⟨.shutDown, v, rfl⟩
    | setCmpint v => exact ⟨.compInt, v, rfl⟩
    | setFq v => exact ⟨.faultQueue, v, rfl⟩
    | setCr v => exact ⟨.conversionRate, v, rfl⟩
    | setPec v => exact ⟨.pec, v, rfl⟩
    | setTo v => exact ⟨.timeOut, v, rfl⟩
    | setRes v => exact ⟨.resolution, v, rfl⟩
    | setFmt v => exact ⟨.format, v, rfl⟩
    | _ => cases h
  · rintro ⟨f, v, rfl⟩
    cases f <;> rfl

/-- The operand TENC refuses is the one its error records. -/
theorem tempEncode_error {o : EncOverflow} {t : Binary64} {f : Bit} {e : Error} (h : tempEncode o t f = .error e) :
    e = .invalidOperand (.temperature t) := by
  unfold tempEncode at h
  split at h <;> cases h
  rfl

theorem writeCommand_effect {i : Instr} {reg : Byte} (hi : i.isBus = true)
    (hr : i.wellFormed = true → reg.toNat ≤ 3) (data : List Byte) (s : State) :
    Effect i s (writeCommand reg data s) := by
  simp only [writeCommand, writeRegister_eq]
  cases ho : s.writeOutcome with
  | ok => exact .wrote reg data hi hr ho
  | ioError => exact .writeFailed reg data hi hr ho

theorem writeTemperature_effect {i : Instr} {reg : Byte} {t : Binary64} (ht : i = .wrthHyst t ∨ i = .wrthTos t)
    (hr : reg.toNat ≤ 3) (s : State) : Effect i s (writeTemperature reg t s) := by
  have hi : i.isBus = true := by rcases ht with rfl | rfl <;> rfl
  unfold writeTemperature
  split
  · exact writeCommand_effect hi (fun _ => hr) _ s
  · rename_i e he
    rw [tempEncode_error he]
    exact .operandRejected t ht

/-- A read command that turns the data it is given into a result. -/
theorem readAnswer_effect {i : Instr} {reg : Byte} (n : Nat) (hi : i.isBus = true)
    (hr : i.wellFormed = true → reg.toNat ≤ 3) (g : List Byte → Result) (hg : ∀ d e, g d ≠ .info e) (s : State) :
    Effect i s (answer ((readRegister reg n s).1.map g) (readRegister reg n s).2) := by
  have hq := (checkAnswer_iff s reg n _).mp rfl
  rw [readRegister_eq]
  dsimp only
  cases hc : checkAnswer s reg (wireLength s n) (s.readOutcome (wireLength s n)) with
  | ok data => rw [hc] at hq; exact .delivered reg n data (g data) hi hr (hg data) hq
  | error e => rw [hc] at hq; exact .readFailed reg n e hi hr hq

theorem set_effect {i : Instr} (f : FieldId) (v : Int) (hi : i = .setField f v) (hf : f ≠ .pec) (s : State) :
    Effect i s (setCommand f v s) := by
  rw [setCommand_eq]
  cases hd : f.inDomain v with
  | true => simpa [hf] using Effect.set (s := s) f v hi hd
  | false => exact .setRejected f v hi hd

theorem setPec_effect (v : Int) (s : State) :
    Effect (.setPec v) s (setPecCommand v s) := by
  have hp : (enableActivePec v s).pending = s.pending := by unfold enableActivePec; split <;> rfl
  rw [setPecCommand, setCommand_eq, hp]
  cases hd : FieldId.inDomain .pec v with
  | true => exact Effect.set (s := s) .pec v rfl hd
  | false =>
    have hv : v ≠ 1 := by rintro rfl; exact absurd hd (by decide)
    have he : enableActivePec v s = s := by simp [enableActivePec, hv]
    rw [he]
    exact .setRejected .pec v rfl hd

theorem commit_effect (s : State) : Effect .commit s (commitCommand s) := by
  simp only [commitCommand, writeRegister_eq]
  cases ho : s.writeOutcome with
  | ok => exact .committed rfl ho
  | ioError => exact .writeFailed 1 _ rfl (fun _ => by decide) ho

theorem refresh_effect (s : State) : Effect .refresh s (refreshCommand s) := by
  have hq := (checkAnswer_iff s 1 2 _).mp rfl
  simp only [refreshCommand, readRegister_eq]
  cases hc : checkAnswer s 1 (wireLength s 2) (s.readOutcome (wireLength s 2)) with
  | ok data =>
    rw [hc] at hq
    obtain ⟨b0, b1, rfl⟩ : ∃ b0 b1, data = [b0, b1] := List.length_eq_two.mp hq.length_eq
    exact .refreshed b0 b1 rfl hq
  | error e => rw [hc] at hq; exact .readFailed 1 2 e rfl (fun _ => by decide) hq

theorem fieldInsert_error {f : FieldId} {b : Byte} {v : Int} {e : Error} (h : fieldInsert f b v = .error e) :
    e = .invalidFieldValue f v := by
  unfold fieldInsert at h
  split at h <;> cases h
  rfl

theorem pecCheck_error {s : State} {reg : Byte} {rx : List Byte} {e : Error} (h : pecCheck s reg rx = .error e) :
    ∃ x y, e = .checksumMismatch reg x y := by
  unfold pecCheck at h
  dsimp only at h
  split at h <;> cases h
  exact ⟨_, _, rfl⟩

theorem map_error {α β : Type} {q : Except Error α} {g : α → β} {e : Error} (h : q.map g = .error e) :
    q = .error e := by
  cases q <;> simp_all [Except.map]

/-- A result built by `g` is data if every value of `g` is. -/
theorem map_ne_info {α : Type} {q : Except Error α} {g : α → Result} (hg : ∀ a e, g a ≠ .info e) (e : Error) :
    q.map g ≠ .ok (.info e) := by
  cases q with
  | ok a => intro h; injection h with h; exact hg a e h
  | error _ => intro h; cases h

theorem fins_effect {i : Instr} (hb : i.isBus = false) (hs : i.isSetter = false) (f : FieldId) (b : Byte) (v : Int)
    (s : State) : Effect i s (finsCommand f b v s) :=
  .report _ hb hs (fun _ h => by rw [fieldInsert_error (map_error h)]; rfl) (map_ne_info (by simp))

theorem tenc_effect (t : Binary64) (f : Bit) (s : State) :
    Effect (.tenc t f) s (answer ((tempEncode s.params.encOverflow t f).map fun p => .pair p.1 p.2) s) :=
  .report _ rfl rfl (fun _ h => by rw [tempEncode_error (map_error h)]; rfl) (map_ne_info (by simp))

theorem pecr_effect (reg : Byte) (rx : List Byte) (s : State) :
    Effect (.pecr reg rx) s
      (answer (if rx = [] then .error (.invalidOperand (.rx rx)) else (pecCheck s reg rx).map .bytes) s) :=
  .report _ rfl rfl (fun e h => by
    split at h
    · cases h; rfl
    · obtain ⟨x, y, rfl⟩ := pecCheck_error (map_error h); rfl)
    (fun e => by
      split
      · simp
      · exact map_ne_info (by simp) e)

/-- What the well-formedness check of a format-X command says of its register id. -/
theorem reg_le_of_wellFormed {reg : Byte} {b : Bool} (h : b = decide (reg ≤ 3)) (hb : b = true) : reg.toNat ≤ 3 := by
  subst h
  exact of_decide_eq_true hb

/-- What a command of a running block can do: `exec` answers a next state only while the block is not faulted, and the
state is one of the ends of `Effect`. -/
theorem exec_effect {i : Instr} {s t : State} (h : exec i s = .next t) : s.faulted = false ∧ Effect i s t := by
  cases i
  all_goals
    obtain ⟨hf, rfl⟩ := command_next_iff.mp h
    refine ⟨hf, ?_⟩
  case setShdn v => exact set_effect .shutDown v rfl (by decide) s
  case setCmpint v => exact set_effect .compInt v rfl (by decide) s
  case setFq v => exact set_effect .faultQueue v rfl (by decide) s
  case setCr v => exact set_effect .conversionRate v rfl (by decide) s
  case setPec v => exact setPec_effect v s
  case setTo v => exact set_effect .timeOut v rfl (by decide) s
  case setRes v => exact set_effect .resolution v rfl (by decide) s
  case setFmt v => exact set_effect .format v rfl (by decide) s
  case tenc t f => exact tenc_effect t f s
  case pecr reg rx => exact pecr_effect reg rx s
  case xwr reg data => exact writeCommand_effect rfl (reg_le_of_wellFormed rfl) data s
  case xrd reg n => exact readAnswer_effect n rfl (reg_le_of_wellFormed rfl) _ (by simp) s
  case commit => exact commit_effect s
  case refresh => exact refresh_effect s
  case rdt => exact readAnswer_effect 2 rfl (fun _ => by decide) _ (by simp) s
  case rdthHyst => exact readAnswer_effect 2 rfl (fun _ => by decide) _ (by simp) s
  case rdthTos => exact readAnswer_effect 2 rfl (fun _ => by decide) _ (by simp) s
  case wrthHyst t => exact writeTemperature_effect (.inl rfl) (by decide) s
  case wrthTos t => exact writeTemperature_effect (.inr rfl) (by decide) s
  all_goals first
    | exact .report (.ok _) rfl rfl (by simp) (by simp)
    | exact fins_effect rfl rfl _ _ _ s

/-- What a step can do: it takes the command presented next and runs what it decodes to, or raises IllegalCommand. -/
theorem step_next {s t : State} (h : step s = .next t) :
    s.faulted = false ∧ ∃ c rest, s.commands = c :: rest ∧
      ((∃ i, decode c = .ok i ∧ exec i { s with commands := rest } = .next t) ∨
        t = raise (.illegalCommand c.op) { s with commands := rest }) := by
  unfold step at h
  by_cases hf : s.faulted = true
  · rw [if_pos hf] at h; cases h
  · rw [if_neg hf] at h
    refine ⟨by simpa using hf, ?_⟩
    cases hc : s.commands with
    | nil => simp [fetch, hc] at h
    | cons c rest =>
      refine ⟨c, rest, rfl, ?_⟩
      simp only [fetch, hc] at h
      cases hd : decode c with
      | ok i => rw [hd] at h; exact .inl ⟨i, rfl, h⟩
      | error e =>
        rw [hd] at h
        unfold decode at hd
        split at hd <;> cases hd
        exact .inr (command_next_iff.mp h).2

/-- A faulted block runs no command (10_state.md R33). -/
theorem exec_of_faulted {s : State} (h : s.faulted = true) (i : Instr) : exec i s = .fault .faulted := by
  cases i <;> exact command_of_faulted h

/-- A running block runs every command to a next state. -/
theorem exec_completes {s : State} (h : s.faulted = false) (i : Instr) : ∃ t, exec i s = .next t := by
  cases i <;> exact ⟨_, command_of_running h⟩

end Sys2Proof.Machine
end

