-- ==== Sys2Proof/Laws/PerInstr.lean ====
section
/-!
SUPPORT. A law of the encoding, one lemma per constructor of `Instr`.
-/

namespace Sys2Proof.Laws.HasOpcodeRow

/-- A well-formed command's opcode byte falls in a row of the opcode map, and that row, given the byte and the ports the
encoder writes, names the command (30_encoding.md R55, R56). -/
def Statement (i : Instr) : Prop :=
  i.wellFormed = true → ∃ row ∈ opcodeRows, rowMatches i.opcode row = true ∧ row.build i.opcode i.ports = i

/-- The register id of a format-X opcode (30_encoding.md R53). -/
theorem reg_bits (base reg : Byte) (h : reg ≤ 3) (hb : base = 0x50 ∨ base = 0x54) :
    (base ||| (reg &&& 0x03)) &&& 0xFC = base ∧ regOfOp (base ||| (reg &&& 0x03)) = reg := by
  unfold regOfOp
  rcases hb with rfl | rfl
  all_goals
    revert reg
    decide

theorem crc8 (data : List Byte) : Statement (.crc8 data) := fun _ =>
  ⟨_, List.mem_of_getElem? (i := 0) rfl, by simp [rowMatches, Instr.opcode], rfl⟩

theorem pecw (reg : Byte) (data : List Byte) : Statement (.pecw reg data) := fun _ =>
  ⟨_, List.mem_of_getElem? (i := 1) rfl, by simp [rowMatches, Instr.opcode], rfl⟩

theorem pecr (reg : Byte) (rx : List Byte) : Statement (.pecr reg rx) := fun _ =>
  ⟨_, List.mem_of_getElem? (i := 2) rfl, by simp [rowMatches, Instr.opcode], rfl⟩

theorem tenc (t : Binary64) (f : Bit) : Statement (.tenc t f) := fun _ =>
  ⟨_, List.mem_of_getElem? (i := 3) rfl, by simp [rowMatches, Instr.opcode], rfl⟩

theorem tdec (u l : Byte) (f : Bit) : Statement (.tdec u l f) := fun _ =>
  ⟨_, List.mem_of_getElem? (i := 4) rfl, by simp [rowMatches, Instr.opcode], rfl⟩

theorem finsShdn (b : Byte) (v : Int) : Statement (.finsShdn b v) := fun _ =>
  ⟨_, List.mem_of_getElem? (i := 5) rfl,
    by simp [rowMatches, Instr.opcode], by
    simp only [Instr.opcode, show fieldOfOp 0x20 = .shutDown by decide]; rfl⟩

theorem finsCmpint (b : Byte) (v : Int) : Statement (.finsCmpint b v) := fun _ =>
  ⟨_, List.mem_of_getElem? (i := 5) rfl,
    by simp [rowMatches, Instr.opcode], by
    simp only [Instr.opcode, show fieldOfOp 0x21 = .compInt by decide]; rfl⟩

theorem finsFq (b : Byte) (v : Int) : Statement (.finsFq b v) := fun _ =>
  ⟨_, List.mem_of_getElem? (i := 5) rfl,
    by simp [rowMatches, Instr.opcode], by
    simp only [Instr.opcode, show fieldOfOp 0x22 = .faultQueue by decide]; rfl⟩

theorem finsCr (b : Byte) (v : Int) : Statement (.finsCr b v) := fun _ =>
  ⟨_, List.mem_of_getElem? (i := 5) rfl,
    by simp [rowMatches, Instr.opcode], by
    simp only [Instr.opcode, show fieldOfOp 0x23 = .conversionRate by decide]; rfl⟩

theorem finsPec (b : Byte) (v : Int) : Statement (.finsPec b v) := fun _ =>
  ⟨_, List.mem_of_getElem? (i := 5) rfl,
    by simp [rowMatches, Instr.opcode], by
    simp only [Instr.opcode, show fieldOfOp 0x24 = .pec by decide]; rfl⟩

theorem finsTo (b : Byte) (v : Int) : Statement (.finsTo b v) := fun _ =>
  ⟨_, List.mem_of_getElem? (i := 5) rfl,
    by simp [rowMatches, Instr.opcode], by
    simp only [Instr.opcode, show fieldOfOp 0x25 = .timeOut by decide]; rfl⟩

theorem finsRes (b : Byte) (v : Int) : Statement (.finsRes b v) := fun _ =>
  ⟨_, List.mem_of_getElem? (i := 5) rfl,
    by simp [rowMatches, Instr.opcode], by
    simp only [Instr.opcode, show fieldOfOp 0x26 = .resolution by decide]; rfl⟩

theorem finsFmt (b : Byte) (v : Int) : Statement (.finsFmt b v) := fun _ =>
  ⟨_, List.mem_of_getElem? (i := 5) rfl,
    by simp [rowMatches, Instr.opcode], by
    simp only [Instr.opcode, show fieldOfOp 0x27 = .format by decide]; rfl⟩

theorem fextShdn (b : Byte) : Statement (.fextShdn b) := fun _ =>
  ⟨_, List.mem_of_getElem? (i := 6) rfl,
    by simp [rowMatches, Instr.opcode], by
    simp only [Instr.opcode, show fieldOfOp 0x28 = .shutDown by decide]; rfl⟩

theorem fextCmpint (b : Byte) : Statement (.fextCmpint b) := fun _ =>
  ⟨_, List.mem_of_getElem? (i := 6) rfl,
    by simp [rowMatches, Instr.opcode], by
    simp only [Instr.opcode, show fieldOfOp 0x29 = .compInt by decide]; rfl⟩

theorem fextFq (b : Byte) : Statement (.fextFq b) := fun _ =>
  ⟨_, List.mem_of_getElem? (i := 6) rfl,
    by simp [rowMatches, Instr.opcode], by
    simp only [Instr.opcode, show fieldOfOp 0x2A = .faultQueue by decide]; rfl⟩

theorem fextCr (b : Byte) : Statement (.fextCr b) := fun _ =>
  ⟨_, List.mem_of_getElem? (i := 6) rfl,
    by simp [rowMatches, Instr.opcode], by
    simp only [Instr.opcode, show fieldOfOp 0x2B = .conversionRate by decide]; rfl⟩

theorem fextPec (b : Byte) : Statement (.fextPec b) := fun _ =>
  ⟨_, List.mem_of_getElem? (i := 6) rfl,
    by simp [rowMatches, Instr.opcode], by
    simp only [Instr.opcode, show fieldOfOp 0x2C = .pec by decide]; rfl⟩

theorem fextTo (b : Byte) : Statement (.fextTo b) := fun _ =>
  ⟨_, List.mem_of_getElem? (i := 6) rfl,
    by simp [rowMatches, Instr.opcode], by
    simp only [Instr.opcode, show fieldOfOp 0x2D = .timeOut by decide]; rfl⟩

theorem fextRes (b : Byte) : Statement (.fextRes b) := fun _ =>
  ⟨_, List.mem_of_getElem? (i := 6) rfl,
    by simp [rowMatches, Instr.opcode], by
    simp only [Instr.opcode, show fieldOfOp 0x2E = .resolution by decide]; rfl⟩

theorem fextFmt (b : Byte) : Statement (.fextFmt b) := fun _ =>
  ⟨_, List.mem_of_getElem? (i := 6) rfl,
    by simp [rowMatches, Instr.opcode], by
    simp only [Instr.opcode, show fieldOfOp 0x2F = .format by decide]; rfl⟩

theorem setShdn (v : Int) : Statement (.setShdn v) := fun _ =>
  ⟨_, List.mem_of_getElem? (i := 7) rfl,
    by simp [rowMatches, Instr.opcode], by
    simp only [Instr.opcode, show fieldOfOp 0x30 = .shutDown by decide]; rfl⟩

theorem setCmpint (v : Int) : Statement (.setCmpint v) := fun _ =>
  ⟨_, List.mem_of_getElem? (i := 7) rfl,
    by simp [rowMatches, Instr.opcode], by
    simp only [Instr.opcode, show fieldOfOp 0x31 = .compInt by decide]; rfl⟩

theorem setFq (v : Int) : Statement (.setFq v) := fun _ =>
  ⟨_, List.mem_of_getElem? (i := 7) rfl,
    by simp [rowMatches, Instr.opcode], by
    simp only [Instr.opcode, show fieldOfOp 0x32 = .faultQueue by decide]; rfl⟩

theorem setCr (v : Int) : Statement (.setCr v) := fun _ =>
  ⟨_, List.mem_of_getElem? (i := 7) rfl,
    by simp [rowMatches, Instr.opcode], by
    simp only [Instr.opcode, show fieldOfOp 0x33 = .conversionRate by decide]; rfl⟩

theorem setPec (v : Int) : Statement (.setPec v) := fun _ =>
  ⟨_, List.mem_of_getElem? (i := 7) rfl,
    by simp [rowMatches, Instr.opcode], by
    simp only [Instr.opcode, show fieldOfOp 0x34 = .pec by decide]; rfl⟩

theorem setTo (v : Int) : Statement (.setTo v) := fun _ =>
  ⟨_, List.mem_of_getElem? (i := 7) rfl,
    by simp [rowMatches, Instr.opcode], by
    simp only [Instr.opcode, show fieldOfOp 0x35 = .timeOut by decide]; rfl⟩

theorem setRes (v : Int) : Statement (.setRes v) := fun _ =>
  ⟨_, List.mem_of_getElem? (i := 7) rfl,
    by simp [rowMatches, Instr.opcode], by
    simp only [Instr.opcode, show fieldOfOp 0x36 = .resolution by decide]; rfl⟩

theorem setFmt (v : Int) : Statement (.setFmt v) := fun _ =>
  ⟨_, List.mem_of_getElem? (i := 7) rfl,
    by simp [rowMatches, Instr.opcode], by
    simp only [Instr.opcode, show fieldOfOp 0x37 = .format by decide]; rfl⟩

theorem getpShdn : Statement (.getpShdn) := fun _ =>
  ⟨_, List.mem_of_getElem? (i := 8) rfl,
    by simp [rowMatches, Instr.opcode], by
    simp only [Instr.opcode, show fieldOfOp 0x38 = .shutDown by decide]; rfl⟩

theorem getpCmpint : Statement (.getpCmpint) := fun _ =>
  ⟨_, List.mem_of_getElem? (i := 8) rfl,
    by simp [rowMatches, Instr.opcode], by
    simp only [Instr.opcode, show fieldOfOp 0x39 = .compInt by decide]; rfl⟩

theorem getpFq : Statement (.getpFq) := fun _ =>
  ⟨_, List.mem_of_getElem? (i := 8) rfl,
    by simp [rowMatches, Instr.opcode], by
    simp only [Instr.opcode, show fieldOfOp 0x3A = .faultQueue by decide]; rfl⟩

theorem getpCr : Statement (.getpCr) := fun _ =>
  ⟨_, List.mem_of_getElem? (i := 8) rfl,
    by simp [rowMatches, Instr.opcode], by
    simp only [Instr.opcode, show fieldOfOp 0x3B = .conversionRate by decide]; rfl⟩

theorem getpPec : Statement (.getpPec) := fun _ =>
  ⟨_, List.mem_of_getElem? (i := 8) rfl,
    by simp [rowMatches, Instr.opcode], by
    simp only [Instr.opcode, show fieldOfOp 0x3C = .pec by decide]; rfl⟩

theorem getpTo : Statement (.getpTo) := fun _ =>
  ⟨_, List.mem_of_getElem? (i := 8) rfl,
    by simp [rowMatches, Instr.opcode], by
    simp only [Instr.opcode, show fieldOfOp 0x3D = .timeOut by decide]; rfl⟩

theorem getpRes : Statement (.getpRes) := fun _ =>
  ⟨_, List.mem_of_getElem? (i := 8) rfl,
    by simp [rowMatches, Instr.opcode], by
    simp only [Instr.opcode, show fieldOfOp 0x3E = .resolution by decide]; rfl⟩

theorem getpFmt : Statement (.getpFmt) := fun _ =>
  ⟨_, List.mem_of_getElem? (i := 8) rfl,
    by simp [rowMatches, Instr.opcode], by
    simp only [Instr.opcode, show fieldOfOp 0x3F = .format by decide]; rfl⟩

theorem getaShdn : Statement (.getaShdn) := fun _ =>
  ⟨_, List.mem_of_getElem? (i := 9) rfl,
    by simp [rowMatches, Instr.opcode], by
    simp only [Instr.opcode, show fieldOfOp 0x40 = .shutDown by decide]; rfl⟩

theorem getaCmpint : Statement (.getaCmpint) := fun _ =>
  ⟨_, List.mem_of_getElem? (i := 9) rfl,
    by simp [rowMatches, Instr.opcode], by
    simp only [Instr.opcode, show fieldOfOp 0x41 = .compInt by decide]; rfl⟩

theorem getaFq : Statement (.getaFq) := fun _ =>
  ⟨_, List.mem_of_getElem? (i := 9) rfl,
    by simp [rowMatches, Instr.opcode], by
    simp only [Instr.opcode, show fieldOfOp 0x42 = .faultQueue by decide]; rfl⟩

theorem getaCr : Statement (.getaCr) := fun _ =>
  ⟨_, List.mem_of_getElem? (i := 9) rfl,
    by simp [rowMatches, Instr.opcode], by
    simp only [Instr.opcode, show fieldOfOp 0x43 = .conversionRate by decide]; rfl⟩

theorem getaPec : Statement (.getaPec) := fun _ =>
  ⟨_, List.mem_of_getElem? (i := 9) rfl,
    by simp [rowMatches, Instr.opcode], by
    simp only [Instr.opcode, show fieldOfOp 0x44 = .pec by decide]; rfl⟩

theorem getaTo : Statement (.getaTo) := fun _ =>
  ⟨_, List.mem_of_getElem? (i := 9) rfl,
    by simp [rowMatches, Instr.opcode], by
    simp only [Instr.opcode, show fieldOfOp 0x45 = .timeOut by decide]; rfl⟩

theorem getaRes : Statement (.getaRes) := fun _ =>
  ⟨_, List.mem_of_getElem? (i := 9) rfl,
    by simp [rowMatches, Instr.opcode], by
    simp only [Instr.opcode, show fieldOfOp 0x46 = .resolution by decide]; rfl⟩

theorem getaFmt : Statement (.getaFmt) := fun _ =>
  ⟨_, List.mem_of_getElem? (i := 9) rfl,
    by simp [rowMatches, Instr.opcode], by
    simp only [Instr.opcode, show fieldOfOp 0x47 = .format by decide]; rfl⟩

theorem rdp : Statement (.rdp) := fun _ =>
  ⟨_, List.mem_of_getElem? (i := 10) rfl, by simp [rowMatches, Instr.opcode], rfl⟩

theorem rda : Statement (.rda) := fun _ =>
  ⟨_, List.mem_of_getElem? (i := 11) rfl, by simp [rowMatches, Instr.opcode], rfl⟩

theorem xwr (reg : Byte) (data : List Byte) : Statement (.xwr reg data) := fun h =>
  have hr := reg_bits 0x50 reg (by simpa [Instr.wellFormed] using h) (by decide)
  ⟨_, List.mem_of_getElem? (i := 12) rfl, by simpa [rowMatches, Instr.opcode] using hr.1, by
    show Instr.xwr (regOfOp _) _ = _
    rw [show Instr.opcode (.xwr reg data) = 0x50 ||| (reg &&& 0x03) from rfl, hr.2]; rfl⟩

theorem xrd (reg : Byte) (n : Nat) : Statement (.xrd reg n) := fun h =>
  have hr := reg_bits 0x54 reg (by simpa [Instr.wellFormed] using h) (by decide)
  ⟨_, List.mem_of_getElem? (i := 13) rfl, by simpa [rowMatches, Instr.opcode] using hr.1, by
    show Instr.xrd (regOfOp _) _ = _
    rw [show Instr.opcode (.xrd reg n) = 0x54 ||| (reg &&& 0x03) from rfl, hr.2]; rfl⟩

theorem commit : Statement (.commit) := fun _ =>
  ⟨_, List.mem_of_getElem? (i := 14) rfl, by simp [rowMatches, Instr.opcode], rfl⟩

theorem refresh : Statement (.refresh) := fun _ =>
  ⟨_, List.mem_of_getElem? (i := 15) rfl, by simp [rowMatches, Instr.opcode], rfl⟩

theorem rdt : Statement (.rdt) := fun _ =>
  ⟨_, List.mem_of_getElem? (i := 16) rfl, by simp [rowMatches, Instr.opcode], rfl⟩

theorem rdthHyst : Statement (.rdthHyst) := fun _ =>
  ⟨_, List.mem_of_getElem? (i := 17) rfl, by simp [rowMatches, Instr.opcode], rfl⟩

theorem rdthTos : Statement (.rdthTos) := fun _ =>
  ⟨_, List.mem_of_getElem? (i := 18) rfl, by simp [rowMatches, Instr.opcode], rfl⟩

theorem wrthHyst (t : Binary64) : Statement (.wrthHyst t) := fun _ =>
  ⟨_, List.mem_of_getElem? (i := 19) rfl, by simp [rowMatches, Instr.opcode], rfl⟩

theorem wrthTos (t : Binary64) : Statement (.wrthTos t) := fun _ =>
  ⟨_, List.mem_of_getElem? (i := 20) rfl, by simp [rowMatches, Instr.opcode], rfl⟩

end Sys2Proof.Laws.HasOpcodeRow
end

