-- ==== Sys2Proof/Tests/Slice0.lean ====
section
/-!
SUPPORT. The model's own tests. Expected values are the spec's: its opcode map (30_encoding.md R55) for the decoder, and
the vectors of 95_test_vectors.md for the commands. The last part shows, for each statement with hypotheses, a state and
operands that meet them.
-/

open Sys2Proof Sys2Proof.Machine

namespace Sys2Proof.Tests

/-- A block in mid-life, with the answers its bus agent will give: one write outcome, one read outcome. -/
def blk (pending active : BitVec 16) (wr : WriteOutcome := .ok) (rd : ReadOutcome := .ioError) : State :=
  { State.reset with
    pending := ⟨pending.extractLsb' 8 8, pending.extractLsb' 0 8⟩
    active := ⟨active.extractLsb' 8 8, active.extractLsb' 0 8⟩
    writeAnswers := [wr]
    readAnswers := [rd] }

/-- What a test looks at: the ports, the two copies and the transactions. -/
def seen (o : Host.Outcome State Fault Refusal) :
    Option (Status × Result × BitVec 16 × BitVec 16 × List BusEvent) :=
  match o with
  | .next t => some (t.status, t.result, t.pending.word, t.active.word, t.history)
  | .fault _ => none
  | .refused _ => none

/-- The ports alone. -/
def ports (o : Host.Outcome State Fault Refusal) : Option (Status × Result) :=
  (seen o).map fun x => (x.1, x.2.1)

/-- The ports alone, after a pure command of a freshly constructed block. -/
def pure (i : Instr) : Option (Status × Result) := ports (exec i State.reset)

/-- Ports with a different value on each, so that a command that reads another port is found. -/
def p : Ports :=
  { data := [1, 2], reg := 3, rx := [4], n := 5, t := 0x4039800000000000, f := 1, u := 6, l := 7, b := 8, v := -9 }

/-! ### Well-formedness (30_encoding.md R53) -/

theorem test_xwr_register_four_is_ill_formed : (Instr.xwr 4 []).wellFormed = false := by decide

theorem test_xrd_register_four_is_ill_formed : (Instr.xrd 4 2).wellFormed = false := by decide

theorem test_register_three_is_well_formed :
    (Instr.xwr 3 []).wellFormed = true ∧ (Instr.xrd 3 0).wellFormed = true := by decide

/-! ### Decoding: every opcode byte written out from the opcode map (R55) -/

theorem test_decode_crc8 : decode ⟨0b00000001, p⟩ = .ok (.crc8 [1, 2]) := by decide

theorem test_decode_framing :
    decode ⟨0b00001000, p⟩ = .ok (.pecw 3 [1, 2]) ∧ decode ⟨0b00001001, p⟩ = .ok (.pecr 3 [4]) := by decide

theorem test_decode_codec :
    decode ⟨0b00010000, p⟩ = .ok (.tenc 0x4039800000000000 1) ∧
    decode ⟨0b00010001, p⟩ = .ok (.tdec 6 7 1) := by decide

theorem test_decode_fins :
    decode ⟨0b00100000, p⟩ = .ok (.finsShdn 8 (-9)) ∧
    decode ⟨0b00100001, p⟩ = .ok (.finsCmpint 8 (-9)) ∧
    decode ⟨0b00100010, p⟩ = .ok (.finsFq 8 (-9)) ∧
    decode ⟨0b00100011, p⟩ = .ok (.finsCr 8 (-9)) ∧
    decode ⟨0b00100100, p⟩ = .ok (.finsPec 8 (-9)) ∧
    decode ⟨0b00100101, p⟩ = .ok (.finsTo 8 (-9)) ∧
    decode ⟨0b00100110, p⟩ = .ok (.finsRes 8 (-9)) ∧
    decode ⟨0b00100111, p⟩ = .ok (.finsFmt 8 (-9)) := by decide

theorem test_decode_fext :
    decode ⟨0b00101000, p⟩ = .ok (.fextShdn 8) ∧
    decode ⟨0b00101001, p⟩ = .ok (.fextCmpint 8) ∧
    decode ⟨0b00101010, p⟩ = .ok (.fextFq 8) ∧
    decode ⟨0b00101011, p⟩ = .ok (.fextCr 8) ∧
    decode ⟨0b00101100, p⟩ = .ok (.fextPec 8) ∧
    decode ⟨0b00101101, p⟩ = .ok (.fextTo 8) ∧
    decode ⟨0b00101110, p⟩ = .ok (.fextRes 8) ∧
    decode ⟨0b00101111, p⟩ = .ok (.fextFmt 8) := by decide

theorem test_decode_set :
    decode ⟨0b00110000, p⟩ = .ok (.setShdn (-9)) ∧
    decode ⟨0b00110001, p⟩ = .ok (.setCmpint (-9)) ∧
    decode ⟨0b00110010, p⟩ = .ok (.setFq (-9)) ∧
    decode ⟨0b00110011, p⟩ = .ok (.setCr (-9)) ∧
    decode ⟨0b00110100, p⟩ = .ok (.setPec (-9)) ∧
    decode ⟨0b00110101, p⟩ = .ok (.setTo (-9)) ∧
    decode ⟨0b00110110, p⟩ = .ok (.setRes (-9)) ∧
    decode ⟨0b00110111, p⟩ = .ok (.setFmt (-9)) := by decide

theorem test_decode_getp :
    decode ⟨0b00111000, p⟩ = .ok .getpShdn ∧
    decode ⟨0b00111001, p⟩ = .ok .getpCmpint ∧
    decode ⟨0b00111010, p⟩ = .ok .getpFq ∧
    decode ⟨0b00111011, p⟩ = .ok .getpCr ∧
    decode ⟨0b00111100, p⟩ = .ok .getpPec ∧
    decode ⟨0b00111101, p⟩ = .ok .getpTo ∧
    decode ⟨0b00111110, p⟩ = .ok .getpRes ∧
    decode ⟨0b00111111, p⟩ = .ok .getpFmt := by decide

theorem test_decode_geta :
    decode ⟨0b01000000, p⟩ = .ok .getaShdn ∧
    decode ⟨0b01000001, p⟩ = .ok .getaCmpint ∧
    decode ⟨0b01000010, p⟩ = .ok .getaFq ∧
    decode ⟨0b01000011, p⟩ = .ok .getaCr ∧
    decode ⟨0b01000100, p⟩ = .ok .getaPec ∧
    decode ⟨0b01000101, p⟩ = .ok .getaTo ∧
    decode ⟨0b01000110, p⟩ = .ok .getaRes ∧
    decode ⟨0b01000111, p⟩ = .ok .getaFmt := by decide

theorem test_decode_whole_copies :
    decode ⟨0b01001000, p⟩ = .ok .rdp ∧ decode ⟨0b01001001, p⟩ = .ok .rda := by decide

theorem test_decode_xwr :
    decode ⟨0b01010000, p⟩ = .ok (.xwr 0 [1, 2]) ∧ decode ⟨0b01010001, p⟩ = .ok (.xwr 1 [1, 2]) ∧
    decode ⟨0b01010010, p⟩ = .ok (.xwr 2 [1, 2]) ∧ decode ⟨0b01010011, p⟩ = .ok (.xwr 3 [1, 2]) := by decide

theorem test_decode_xrd :
    decode ⟨0b01010100, p⟩ = .ok (.xrd 0 5) ∧ decode ⟨0b01010101, p⟩ = .ok (.xrd 1 5) ∧
    decode ⟨0b01010110, p⟩ = .ok (.xrd 2 5) ∧ decode ⟨0b01010111, p⟩ = .ok (.xrd 3 5) := by decide

theorem test_decode_transitions :
    decode ⟨0b01100000, p⟩ = .ok .commit ∧ decode ⟨0b01100001, p⟩ = .ok .refresh := by decide

theorem test_decode_temperature_registers :
    decode ⟨0b01110000, p⟩ = .ok .rdt ∧ decode ⟨0b01110010, p⟩ = .ok .rdthHyst ∧
    decode ⟨0b01110011, p⟩ = .ok .rdthTos ∧ decode ⟨0b01111010, p⟩ = .ok (.wrthHyst 0x4039800000000000) ∧
    decode ⟨0b01111011, p⟩ = .ok (.wrthTos 0x4039800000000000) := by decide

/-- The edges of the unassigned ranges of R57, as 95_test_vectors.md section 2.8 lists them. -/
theorem test_decode_unassigned :
    [0x00, 0x02, 0x07, 0x0F, 0x12, 0x1F, 0x4A, 0x58, 0x5F, 0x62, 0x71, 0x74, 0x79, 0x7C, 0x80, 0xFF].all
      (fun op : Byte => decide (decode ⟨op, p⟩ = .error (.unassigned op))) = true := by decide

theorem test_table_word : decodeTableWord 8 0x34 = some (.setPec 0) ∧ decodeTableWord 8 0x71 = none := by decide

/-! ### The CRC engine and the framing commands (95_test_vectors.md 2.1, 2.2) -/

theorem test_crc8_commit_header : pure (.crc8 [0x90, 0x01, 0x00, 0x40]) = some (.success, .byte 0xFA) := by decide

theorem test_crc8_check_value :
    pure (.crc8 [0x31, 0x32, 0x33, 0x34, 0x35, 0x36, 0x37, 0x38, 0x39]) = some (.success, .byte 0xF4) := by decide

theorem test_pecw : pure (.pecw 1 [0x00, 0x40]) = some (.success, .bytes [0x00, 0x40, 0xFA]) := by decide

theorem test_pecw_any_register : pure (.pecw 200 [0x12]) = some (.success, .bytes [0x12, 0x92]) := by decide

theorem test_pecr : pure (.pecr 0 [0x19, 0x80, 0x04]) = some (.success, .bytes [0x19, 0x80]) := by decide

theorem test_pecr_rejects_the_write_crc :
    pure (.pecr 1 [0x00, 0x40, 0xFA]) = some (.checksumMismatch, .info (.checksumMismatch 1 0xB6 0xFA)) := by decide

/-! ### The codec (2.3, 2.4) -/

/-- The source's example S1: -25.5 in format 0. -/
theorem test_tenc : pure (.tenc 0xC039800000000000 0) = some (.success, .pair 0x99 0x80) := by decide

/-- -1.99 in format 1 is truncated, and 300.0 in format 0 wraps. -/
theorem test_tenc_truncates_and_wraps :
    pure (.tenc 0xBFFFD70A3D70A3D7 1) = some (.success, .pair 0x80 0xF8) ∧
    pure (.tenc 0x4072C00000000000 0) = some (.success, .pair 0x2C 0x00) := by decide

/-- The source's example S2, and the same pair in format 1. -/
theorem test_tdec :
    pure (.tdec 0x99 0x80 0) = some (.success, .temperature 0xC039800000000000) ∧
    pure (.tdec 0x99 0x80 1) = some (.success, .temperature 0xC049800000000000) := by decide

theorem test_tdec_negative_zero :
    pure (.tdec 0x80 0x0F 0) = some (.success, .temperature 0x8000000000000000) := by decide

/-! ### The configuration fields (2.5, 2.6) -/

theorem test_fins_shdn :
    pure (.finsShdn 0x00 1) = some (.success, .byte 0x01) ∧
    pure (.finsShdn 0xFF 0) = some (.success, .byte 0xFE) ∧
    pure (.finsShdn 0x00 2) = some (.invalidFieldValue, .info (.invalidFieldValue .shutDown 2)) := by decide

theorem test_fins_cmpint :
    pure (.finsCmpint 0x00 1) = some (.success, .byte 0x02) ∧
    pure (.finsCmpint 0xFF 0) = some (.success, .byte 0xFD) ∧
    pure (.finsCmpint 0x00 2) = some (.invalidFieldValue, .info (.invalidFieldValue .compInt 2)) := by decide

theorem test_fins_fq :
    pure (.finsFq 0x00 3) = some (.success, .byte 0x18) ∧
    pure (.finsFq 0xFF 0) = some (.success, .byte 0xE7) ∧
    pure (.finsFq 0x00 4) = some (.invalidFieldValue, .info (.invalidFieldValue .faultQueue 4)) := by decide

theorem test_fins_cr :
    pure (.finsCr 0x00 3) = some (.success, .byte 0x06) ∧
    pure (.finsCr 0xFF 0) = some (.success, .byte 0xF9) ∧
    pure (.finsCr 0x00 4) = some (.invalidFieldValue, .info (.invalidFieldValue .conversionRate 4)) := by decide

theorem test_fins_pec :
    pure (.finsPec 0x00 1) = some (.success, .byte 0x08) ∧
    pure (.finsPec 0xFF 0) = some (.success, .byte 0xF7) ∧
    pure (.finsPec 0x00 2) = some (.invalidFieldValue, .info (.invalidFieldValue .pec 2)) := by decide

theorem test_fins_to :
    pure (.finsTo 0x00 1) = some (.success, .byte 0x10) ∧
    pure (.finsTo 0xFF 0) = some (.success, .byte 0xEF) ∧
    pure (.finsTo 0x00 2) = some (.invalidFieldValue, .info (.invalidFieldValue .timeOut 2)) := by decide

theorem test_fins_res :
    pure (.finsRes 0x00 3) = some (.success, .byte 0x60) ∧
    pure (.finsRes 0xFF 0) = some (.success, .byte 0x9F) ∧
    pure (.finsRes 0x00 4) = some (.invalidFieldValue, .info (.invalidFieldValue .resolution 4)) := by decide

theorem test_fins_fmt :
    pure (.finsFmt 0x00 1) = some (.success, .byte 0x80) ∧
    pure (.finsFmt 0xFF 0) = some (.success, .byte 0x7F) ∧
    pure (.finsFmt 0x00 2) = some (.invalidFieldValue, .info (.invalidFieldValue .format 2)) := by decide

theorem test_fext_shdn :
    pure (.fextShdn 0x01) = some (.success, .value 1) ∧
    pure (.fextShdn 0xFE) = some (.success, .value 0) := by decide

theorem test_fext_cmpint :
    pure (.fextCmpint 0x02) = some (.success, .value 1) ∧
    pure (.fextCmpint 0xFD) = some (.success, .value 0) := by decide

theorem test_fext_fq :
    pure (.fextFq 0x18) = some (.success, .value 3) ∧
    pure (.fextFq 0xE7) = some (.success, .value 0) := by decide

theorem test_fext_cr :
    pure (.fextCr 0x06) = some (.success, .value 3) ∧
    pure (.fextCr 0xF9) = some (.success, .value 0) := by decide

theorem test_fext_pec :
    pure (.fextPec 0x08) = some (.success, .value 1) ∧
    pure (.fextPec 0xF7) = some (.success, .value 0) := by decide

theorem test_fext_to :
    pure (.fextTo 0x10) = some (.success, .value 1) ∧
    pure (.fextTo 0xEF) = some (.success, .value 0) := by decide

theorem test_fext_res :
    pure (.fextRes 0x60) = some (.success, .value 3) ∧
    pure (.fextRes 0x9F) = some (.success, .value 0) := by decide

theorem test_fext_fmt :
    pure (.fextFmt 0x80) = some (.success, .value 1) ∧
    pure (.fextFmt 0x7F) = some (.success, .value 0) := by decide

theorem test_set_shdn :
    seen (exec (.setShdn 1) State.reset) = some (.success, .nothing, 0x0140, 0x0040, []) := by decide

theorem test_set_shdn_rejects :
    seen (exec (.setShdn 2) State.reset) =
      some (.invalidFieldValue, .info (.invalidFieldValue .shutDown 2), 0x0040, 0x0040, []) := by decide

theorem test_set_cmpint :
    seen (exec (.setCmpint 1) State.reset) = some (.success, .nothing, 0x0240, 0x0040, []) := by decide

theorem test_set_cmpint_rejects :
    seen (exec (.setCmpint 2) State.reset) =
      some (.invalidFieldValue, .info (.invalidFieldValue .compInt 2), 0x0040, 0x0040, []) := by decide

theorem test_set_fq :
    seen (exec (.setFq 3) State.reset) = some (.success, .nothing, 0x1840, 0x0040, []) := by decide

theorem test_set_fq_rejects :
    seen (exec (.setFq (-1)) State.reset) =
      some (.invalidFieldValue, .info (.invalidFieldValue .faultQueue (-1)), 0x0040, 0x0040, []) := by decide

theorem test_set_cr :
    seen (exec (.setCr 3) State.reset) = some (.success, .nothing, 0x0046, 0x0040, []) := by decide

theorem test_set_cr_rejects :
    seen (exec (.setCr 4) State.reset) =
      some (.invalidFieldValue, .info (.invalidFieldValue .conversionRate 4), 0x0040, 0x0040, []) := by decide

theorem test_set_pec :
    seen (exec (.setPec 1) State.reset) = some (.success, .nothing, 0x0048, 0x0048, []) := by decide

theorem test_set_pec_rejects :
    seen (exec (.setPec (-1)) State.reset) =
      some (.invalidFieldValue, .info (.invalidFieldValue .pec (-1)), 0x0040, 0x0040, []) := by decide

theorem test_set_to :
    seen (exec (.setTo 1) State.reset) = some (.success, .nothing, 0x0050, 0x0040, []) := by decide

theorem test_set_to_rejects :
    seen (exec (.setTo 2) State.reset) =
      some (.invalidFieldValue, .info (.invalidFieldValue .timeOut 2), 0x0040, 0x0040, []) := by decide

theorem test_set_res :
    seen (exec (.setRes 3) State.reset) = some (.success, .nothing, 0x0060, 0x0040, []) := by decide

theorem test_set_res_rejects :
    seen (exec (.setRes 4) State.reset) =
      some (.invalidFieldValue, .info (.invalidFieldValue .resolution 4), 0x0040, 0x0040, []) := by decide

theorem test_set_fmt :
    seen (exec (.setFmt 1) State.reset) = some (.success, .nothing, 0x00C0, 0x0040, []) := by decide

theorem test_set_fmt_rejects :
    seen (exec (.setFmt 2) State.reset) =
      some (.invalidFieldValue, .info (.invalidFieldValue .format 2), 0x0040, 0x0040, []) := by decide

/-- SET.PEC 0 leaves `active` as it is (43_config_fields.md R117). -/
theorem test_disabling_pec_leaves_active :
    seen (exec (.setPec 0) (blk 0x0048 0x0048)) = some (.success, .nothing, 0x0040, 0x0048, []) := by decide

theorem test_get_shdn :
    ports (exec .getpShdn (blk 0x0100 0xFEFF)) = some (.success, .value 1) ∧
    ports (exec .getaShdn (blk 0x0100 0xFEFF)) = some (.success, .value 0) ∧
    ports (exec .getaShdn (blk 0xFEFF 0x0100)) = some (.success, .value 1) := by decide

theorem test_get_cmpint :
    ports (exec .getpCmpint (blk 0x0200 0xFDFF)) = some (.success, .value 1) ∧
    ports (exec .getaCmpint (blk 0x0200 0xFDFF)) = some (.success, .value 0) ∧
    ports (exec .getaCmpint (blk 0xFDFF 0x0200)) = some (.success, .value 1) := by decide

theorem test_get_fq :
    ports (exec .getpFq (blk 0x1800 0xE7FF)) = some (.success, .value 3) ∧
    ports (exec .getaFq (blk 0x1800 0xE7FF)) = some (.success, .value 0) ∧
    ports (exec .getaFq (blk 0xE7FF 0x1800)) = some (.success, .value 3) := by decide

theorem test_get_cr :
    ports (exec .getpCr (blk 0x0006 0xFFF9)) = some (.success, .value 3) ∧
    ports (exec .getaCr (blk 0x0006 0xFFF9)) = some (.success, .value 0) ∧
    ports (exec .getaCr (blk 0xFFF9 0x0006)) = some (.success, .value 3) := by decide

theorem test_get_pec :
    ports (exec .getpPec (blk 0x0008 0xFFF7)) = some (.success, .value 1) ∧
    ports (exec .getaPec (blk 0x0008 0xFFF7)) = some (.success, .value 0) ∧
    ports (exec .getaPec (blk 0xFFF7 0x0008)) = some (.success, .value 1) := by decide

theorem test_get_to :
    ports (exec .getpTo (blk 0x0010 0xFFEF)) = some (.success, .value 1) ∧
    ports (exec .getaTo (blk 0x0010 0xFFEF)) = some (.success, .value 0) ∧
    ports (exec .getaTo (blk 0xFFEF 0x0010)) = some (.success, .value 1) := by decide

theorem test_get_res :
    ports (exec .getpRes (blk 0x0060 0xFF9F)) = some (.success, .value 3) ∧
    ports (exec .getaRes (blk 0x0060 0xFF9F)) = some (.success, .value 0) ∧
    ports (exec .getaRes (blk 0xFF9F 0x0060)) = some (.success, .value 3) := by decide

theorem test_get_fmt :
    ports (exec .getpFmt (blk 0x0080 0xFF7F)) = some (.success, .value 1) ∧
    ports (exec .getaFmt (blk 0x0080 0xFF7F)) = some (.success, .value 0) ∧
    ports (exec .getaFmt (blk 0xFF7F 0x0080)) = some (.success, .value 1) := by decide

theorem test_rdp : ports (exec .rdp (blk 0x0140 0x10E0)) = some (.success, .image 0x01 0x40) := by decide

theorem test_rda : ports (exec .rda (blk 0x0140 0x10E0)) = some (.success, .image 0x10 0xE0) := by decide

/-! ### The bus commands (2.7) -/

theorem test_xwr_framed :
    seen (exec (.xwr 1 [0x00, 0x40]) (blk 0x0048 0x0048)) =
      some (.success, .nothing, 0x0048, 0x0048, [.write 0x48 1 [0x00, 0x40, 0xFA] .ok]) := by decide

theorem test_xwr_fails :
    seen (exec (.xwr 2 [0x4B, 0x00]) (blk 0x0040 0x0040 .ioError)) =
      some (.transportError, .info (.transportError 2), 0x0040, 0x0040, [.write 0x48 2 [0x4B, 0x00] .ioError]) := by
  decide

theorem test_xrd_corrupted :
    seen (exec (.xrd 1 2) (blk 0x0048 0x0048 .ok (.bytes [0x00, 0x41, 0xB6]))) =
      some (.checksumMismatch, .info (.checksumMismatch 1 0xB1 0xB6), 0x0048, 0x0048,
        [.read 0x48 1 3 (.bytes [0x00, 0x41, 0xB6])]) := by decide

theorem test_xrd_none_framed :
    seen (exec (.xrd 3 0) (blk 0x0048 0x0048 .ok (.bytes [0x68]))) =
      some (.success, .bytes [], 0x0048, 0x0048, [.read 0x48 3 1 (.bytes [0x68])]) := by decide

/-- Program P3, step 4: the disabling COMMIT is still framed. -/
theorem test_commit_disabling_pec :
    seen (exec .commit (blk 0x0040 0x0048)) =
      some (.success, .nothing, 0x0040, 0x0040, [.write 0x48 1 [0x00, 0x40, 0xFA] .ok]) := by decide

/-- Program P4, step 7. -/
theorem test_commit_fails :
    seen (exec .commit (blk 0x0140 0x10E0 .ioError)) =
      some (.transportError, .info (.transportError 1), 0x0140, 0x10E0, [.write 0x48 1 [0x01, 0x40] .ioError]) := by
  decide

theorem test_refresh :
    seen (exec .refresh (blk 0x0040 0x0040 .ok (.bytes [0x10, 0xE0]))) =
      some (.success, .nothing, 0x0040, 0x10E0, [.read 0x48 1 2 (.bytes [0x10, 0xE0])]) := by decide

/-- The length is checked before the CRC (60_exceptions.md R161). -/
theorem test_refresh_short_answer :
    seen (exec .refresh (blk 0x0048 0x0048 .ok (.bytes [0x00, 0x48]))) =
      some (.busContractViolation, .info (.busContractViolation 1 3 2), 0x0048, 0x0048,
        [.read 0x48 1 3 (.bytes [0x00, 0x48])]) := by decide

theorem test_rdt_active_format :
    seen (exec .rdt (blk 0x0040 0x00C0 .ok (.bytes [0x19, 0x80]))) =
      some (.success, .temperature 0x4049800000000000, 0x0040, 0x00C0, [.read 0x48 0 2 (.bytes [0x19, 0x80])]) := by
  decide

theorem test_rdt_framed :
    ports (exec .rdt (blk 0x0048 0x0048 .ok (.bytes [0x19, 0x80, 0x04]))) =
      some (.success, .temperature 0x4039800000000000) := by decide

theorem test_rdth_hyst :
    seen (exec .rdthHyst (blk 0x0048 0x0048 .ok (.bytes [0x4B, 0x00, 0x87]))) =
      some (.success, .temperature 0x4052C00000000000, 0x0048, 0x0048,
        [.read 0x48 2 3 (.bytes [0x4B, 0x00, 0x87])]) := by decide

theorem test_rdth_tos :
    seen (exec .rdthTos (blk 0x00C8 0x00C8 .ok (.bytes [0x28, 0x00, 0x5B]))) =
      some (.success, .temperature 0x4054000000000000, 0x00C8, 0x00C8,
        [.read 0x48 3 3 (.bytes [0x28, 0x00, 0x5B])]) := by decide

theorem test_wrth_hyst :
    seen (exec (.wrthHyst 0x4052C00000000000) (blk 0x0048 0x0048)) =
      some (.success, .nothing, 0x0048, 0x0048, [.write 0x48 2 [0x4B, 0x00, 0x4C] .ok]) := by decide

theorem test_wrth_hyst_negative :
    seen (exec (.wrthHyst 0xBFB0000000000000) (blk 0x0040 0x0040)) =
      some (.success, .nothing, 0x0040, 0x0040, [.write 0x48 2 [0x80, 0x10] .ok]) := by decide

theorem test_wrth_tos :
    seen (exec (.wrthTos 0x4054000000000000) (blk 0x00C0 0x00C0)) =
      some (.success, .nothing, 0x00C0, 0x00C0, [.write 0x48 3 [0x28, 0x00] .ok]) := by decide

theorem test_wrth_tos_not_a_number :
    seen (exec (.wrthTos 0x7FF8000000000000) (blk 0x0040 0x0040)) =
      some (.invalidOperand, .info (.invalidOperand (.temperature 0x7FF8000000000000)), 0x0040, 0x0040, []) := by
  decide

/-! ### A step -/

/-- P2, step 1. -/
theorem test_step_runs_the_command :
    seen (step { State.reset with commands := [⟨0x34, { p with v := 1 }⟩] }) =
      some (.success, .nothing, 0x0048, 0x0048, []) := by decide

/-- P3, step 8. -/
theorem test_step_illegal :
    seen (step { State.reset with commands := [⟨0x71, p⟩] }) =
      some (.illegalCommand, .info (.illegalCommand 0x71), 0x0040, 0x0040, []) := by decide

/-- P4, step 10. -/
theorem test_step_faulted :
    step { State.reset with faulted := true, commands := [⟨0x49, p⟩] } = .fault .faulted := rfl

theorem test_step_table_word :
    ports (step (State.reset.withFetchWord 8 0x48)) = some (.success, .image 0x00 0x40) := by decide

/-! ### The assembler (30_encoding.md R66) -/

theorem test_assemble_examples :
    assembleLine "CRC8 [0x90, 0x01, 0x00, 0x40]" = .command (.crc8 [0x90, 0x01, 0x00, 0x40]) ∧
    assembleLine "TDEC 0x99, 0x80, 0" = .command (.tdec 0x99 0x80 0) ∧
    assembleLine "PECR 1, [0x00, 0x40, 0xB6]" = .command (.pecr 1 [0x00, 0x40, 0xB6]) ∧
    assembleLine "SET.PEC 1 ; enable" = .command (.setPec 1) ∧ assembleLine "GETA.FMT" = .command .getaFmt := by
  decide

/-- 1.99 is read as the binary64 value nearest to it. -/
theorem test_assemble_temperature :
    assembleLine "TENC 1.99, 1" = .command (.tenc 0x3FFFD70A3D70A3D7 1) := by decide

/-! ### Witnesses: every statement with hypotheses has a state and operands that meet them -/

/-- A block whose PEC bit is on, about to write successfully and to be answered with a good frame for register 1. -/
def framedBlk : State := blk 0x0048 0x0048 .ok (.bytes [0x00, 0x40, 0xB6])

theorem witness_DecodeOfEncodeIsTheCommand :
    (Instr.xwr 3 [0x12]).wellFormed = true ∧ (Instr.xrd 0 2).wellFormed = true := by decide

theorem witness_DecodedCommandReencodes : decode ⟨0x53, p⟩ = .ok (.xwr 3 [1, 2]) := by decide

/-- Both ends of the illegal bytes, and a running block to which one is presented. -/
theorem witness_UnassignedOpcodesRaiseIllegalCommand :
    decode ⟨0x00, p⟩ = .error (.unassigned 0x00) ∧ decode ⟨0xFF, p⟩ = .error (.unassigned 0xFF) ∧
    (decode ⟨0x7B, p⟩).toBool = true ∧ State.reset.faulted = false ∧
    (State.reset.present ⟨0xFF, p⟩).commands = ⟨0xFF, p⟩ :: [] := by decide

theorem witness_StepRunsTheDecodedCommand :
    (State.reset.present ⟨0x55, p⟩).faulted = false ∧ (State.reset.present ⟨0x55, p⟩).commands = ⟨0x55, p⟩ :: [] ∧
    decode ⟨0x55, p⟩ = .ok (.xrd 1 5) := by decide

theorem witness_ConstructionGivesPowerOnCopies :
    ∃ s, State.construct 7 { defaultParams with encOverflow := .fault } = some s := ⟨_, rfl⟩

/-- The two ends of the offsets, and the first one refused; a step that answers a next state. -/
theorem witness_DeviceAddressIsFixedAtConstruction :
    (∃ s, State.construct 0 defaultParams = some s) ∧ (∃ s, State.construct 7 defaultParams = some s) ∧
    State.construct 8 defaultParams = none ∧ (∃ t, step (framedBlk.present ⟨0x55, p⟩) = .next t) :=
  ⟨⟨_, rfl⟩, ⟨_, rfl⟩, rfl, ⟨_, rfl⟩⟩

/-- A command that sets the mark, one that does not, and a faulted block. -/
theorem witness_FaultMarkStopsTheBlock :
    (∃ t, exec .rdt (blk 0x0040 0x0040 .ok (.bytes [0x19])) = .next t ∧ t.faulted = true) ∧
    (∃ t, exec .rdp State.reset = .next t ∧ t.faulted = false) ∧
    (∃ s, State.construct 7 defaultParams = some s) ∧ (∃ t, step (State.reset.present ⟨0x71, p⟩) = .next t) ∧
    { State.reset with faulted := true }.faulted = true :=
  ⟨⟨_, rfl, by decide⟩, ⟨_, rfl, by decide⟩, ⟨_, rfl⟩, ⟨_, rfl⟩, rfl⟩

/-- A broken answer, a kept one, and an agent with no answer scripted. -/
theorem witness_OnlyABrokenAnswerFaults :
    (∃ t, step ((blk 0x0040 0x0040 .ok (.bytes [0x19])).present ⟨0x70, p⟩) = .next t ∧ t.faulted = true) ∧
    (∃ t, step ((blk 0x0040 0x0040 .ok (.bytes [0x19, 0x80])).present ⟨0x70, p⟩) = .next t ∧ t.faulted = false) ∧
    (∃ t, step (State.reset.present ⟨0x70, p⟩) = .next t) ∧ (State.reset.present ⟨0x70, p⟩).readAnswers = [] :=
  ⟨⟨_, rfl, by decide⟩, ⟨_, rfl, by decide⟩, ⟨_, rfl⟩, rfl⟩

/-- A block with a transaction in its history, and a step from it. -/
theorem witness_StepKeepsTheInvariant :
    ∃ s t : State, s.Inv ∧ s.history ≠ [] ∧ step s = .next t := by
  refine ⟨({ framedBlk with history := [.read 0x48 3 2 .ioError] }).present ⟨0x55, p⟩, _, ?_, by decide, rfl⟩
  constructor
  · decide
  · decide
  · decide
  · decide
  · intro e he
    rw [List.mem_singleton.mp (show e ∈ [BusEvent.read 0x48 3 2 .ioError] from he)]
    decide
  · constructor
    · intro h; exact absurd h (by decide)
    · rintro ⟨e, he, hk⟩
      rw [List.mem_singleton.mp (show e ∈ [BusEvent.read 0x48 3 2 .ioError] from he)] at hk
      exact absurd hk (by decide)
  · intro h; exact absurd h (by decide)

theorem witness_ConstructedBlockHasTheInvariant : ∃ s, State.construct 7 defaultParams = some s := ⟨_, rfl⟩

/-- A command that is no setter, and a setter with a field of the other byte. -/
theorem witness_OnlySettersWritePending :
    (∃ t, exec .refresh framedBlk = .next t) ∧ Instr.refresh.isSetter = false ∧
    (∃ t, exec (.setField .format 1) framedBlk = .next t) ∧ FieldId.byteSel .shutDown ≠ FieldId.byteSel .format :=
  ⟨⟨_, rfl⟩, rfl, ⟨_, rfl⟩, by decide⟩

/-- Each of the ways `active` comes to change, and a command that leaves it. -/
theorem witness_OnlyThreeCommandsWriteActive :
    (∃ t, exec .commit (blk 0x0140 0x0040) = .next t ∧ t.status = .success ∧ t.active.word = 0x0140) ∧
    (∃ t, exec .refresh framedBlk = .next t ∧ t.status = .success ∧ t.active.word = 0x0040) ∧
    (∃ t, exec (.setPec 1) State.reset = .next t ∧ t.active.word = 0x0048) ∧
    (∃ t, exec (.setPec 0) framedBlk = .next t ∧ t.active.word = 0x0048) :=
  ⟨⟨_, rfl, by decide⟩, ⟨_, rfl, by decide⟩, ⟨_, rfl, by decide⟩, ⟨_, rfl, by decide⟩⟩

theorem witness_OtherCommandsOnlyReport :
    (Instr.pecr 1 []).isSetter = false ∧ (Instr.pecr 1 []).isBus = false ∧ ∃ t, exec (.pecr 1 []) framedBlk = .next t :=
  ⟨rfl, rfl, ⟨_, rfl⟩⟩

/-- A setter turned away, and a commit that failed. -/
theorem witness_ErrorsLeaveTheCopies :
    (∃ t, exec (.setPec 2) State.reset = .next t ∧ t.result = .info (.invalidFieldValue .pec 2)) ∧
    (∃ t, exec .commit (blk 0x0140 0x0040 .ioError) = .next t ∧ t.result = .info (.transportError 1)) :=
  ⟨⟨_, rfl, by decide⟩, ⟨_, rfl, by decide⟩⟩

theorem witness_StepPerformsAtMostOneTransaction :
    (∃ t, step (State.reset.present ⟨0x48, p⟩) = .next t ∧ t.history = []) ∧
    (∃ t, step (framedBlk.present ⟨0x57, p⟩) = .next t ∧ t.history.length = 1) :=
  ⟨⟨_, rfl, by decide⟩, ⟨_, rfl, by decide⟩⟩

theorem witness_HistoryIsNeverRead : ∃ t, exec .commit framedBlk = .next t := ⟨_, rfl⟩

theorem witness_PendingIsReadOnlyByItsReaders :
    Instr.refresh.readsPending = false ∧ Instr.refresh.isSetter = false ∧ ∃ t, exec .refresh framedBlk = .next t :=
  ⟨rfl, rfl, ⟨_, rfl⟩⟩

/-- Another `active`, 0x1F2E in place of 0x0048, with the same two bits. -/
theorem witness_OnlyPecAndFormatBitsOfActiveMatter :
    Instr.rdt.showsActive = false ∧ (0x2E : Byte)[3] = framedBlk.active.b1[3] ∧
    (0x2E : Byte)[7] = framedBlk.active.b1[7] ∧ ∃ t, exec .rdt framedBlk = .next t :=
  ⟨rfl, by decide, by decide, ⟨_, rfl⟩⟩

theorem witness_Crc8ReturnsTheFold :
    State.reset.faulted = false ∧ State.reset.params.crc8Table = defaultCrcTable := ⟨rfl, rfl⟩

theorem witness_SingleBitErrorChangesTheCrc :
    (3 : Nat) < ([0x90, 0x01, 0x00, 0x40] : List Byte).length ∧ (7 : Nat) < 8 := by decide

/-- The last bit of the CRC byte and the first bit of the data. -/
theorem witness_PecrRejectsEverySingleBitError :
    framedBlk.params.crc8Table = defaultCrcTable ∧
    (∃ t, exec (.pecr 1 [0x00, 0x40, 0xB6]) framedBlk = .next t ∧ t.status = .success) ∧
    (2 : Nat) < ([0x00, 0x40, 0xB6] : List Byte).length ∧ (0 : Nat) < ([0x00, 0x40, 0xB6] : List Byte).length :=
  ⟨rfl, ⟨_, rfl, by decide⟩, by decide, by decide⟩

/-- Each way TENC refuses (+inf; 1e308; 128.0 in format 0 under FAULT), and the largest magnitude it takes then. -/
theorem witness_TencTruncatesTheExactMagnitude :
    State.reset.faulted = false ∧ TencRefuses .truncate 0x7FF0000000000000 0 ∧
    TencRefuses .truncate 0x7FE1CCF385EBC8A0 0 ∧ TencRefuses .fault 0x4060000000000000 0 ∧
    ¬ TencRefuses .fault 0x405FFC0000000000 0 ∧ ¬ TencRefuses .truncate 0x4060000000000000 0 :=
  ⟨rfl, (tempRejected_iff _ _ _).mp (by decide), (tempRejected_iff _ _ _).mp (by decide),
    (tempRejected_iff _ _ _).mp (by decide), fun h => absurd ((tempRejected_iff _ _ _).mpr h) (by decide),
    fun h => absurd ((tempRejected_iff _ _ _).mpr h) (by decide)⟩

/-- 300.0. -/
theorem witness_OutOfRangeMagnitudeWraps :
    State.reset.faulted = false ∧ State.reset.params.encOverflow = .truncate ∧
    ¬ TencRefuses .truncate 0x4072C00000000000 0 :=
  ⟨rfl, rfl, fun h => absurd ((tempRejected_iff _ _ _).mpr h) (by decide)⟩

theorem witness_TdecDecodesTheExactValue : State.reset.faulted = false := rfl

/-- -255.9375 in format 1, the most negative value of the codec. -/
theorem witness_CodecRoundTrips :
    State.reset.faulted = false ∧ (Binary64.ofSixteenths true 4095).isFinite = true ∧
    16 * (Binary64.ofSixteenths true 4095).absRat = (4095 : Nat) ∧ 4095 ≤ 2 ^ (15 - pOf 1) - 1 := by
  obtain ⟨h1, -, h3⟩ := Binary64.ofSixteenths_spec true 4095 (by norm_num)
  exact ⟨rfl, h1, by rw [h3]; norm_num, by decide⟩

theorem witness_FinsInsertsItsField : framedBlk.faulted = false := rfl

theorem witness_FextExtractsItsField : framedBlk.faulted = false := rfl

theorem witness_SetWritesItsPendingField : framedBlk.faulted = false := rfl

/-- Values outside the domain of the PEC field, on both sides. -/
theorem witness_SetPecEnablesBothCopies :
    framedBlk.faulted = false ∧ (2 : Int) ≠ 0 ∧ (2 : Int) ≠ 1 ∧ (-1 : Int) ≠ 0 ∧ (-1 : Int) ≠ 1 :=
  ⟨rfl, by decide, by decide, by decide, by decide⟩

theorem witness_GetpReadsPending : framedBlk.faulted = false := rfl

theorem witness_GetaReadsActive : framedBlk.faulted = false := rfl

theorem witness_WholeCopyReads : framedBlk.faulted = false := rfl

theorem witness_FieldInsertExtractLaws :
    FieldId.inDomain .resolution 3 = true ∧ FieldId.format ≠ FieldId.resolution ∧
    FieldId.byteSel .format = FieldId.byteSel .resolution := by decide

/-- Two fields, and one field twice. -/
theorem witness_SettersCommute :
    framedBlk.faulted = false ∧ FieldId.inDomain .pec 1 = true ∧ FieldId.inDomain .format 1 = true ∧
    FieldId.pec ≠ FieldId.format ∧ FieldId.inDomain .pec 0 = true := by decide

theorem witness_PecwReturnsTheWriteFrame : framedBlk.faulted = false := rfl

/-- A last byte that is the CRC, and one that is not. -/
theorem witness_PecrChecksTheReadFrame :
    framedBlk.faulted = false ∧ frameCrc framedBlk 1 [0x00, 0x40] = 0xB6 ∧ frameCrc framedBlk 1 [0x00, 0x40] ≠ 0xFA := by
  decide

theorem witness_XwrWritesTheRegister :
    (3 : Byte) ≤ 3 ∧ (0 : Byte) ≤ 3 ∧ framedBlk.faulted = false ∧ framedBlk.writeOutcome = .ok ∧
    (blk 0x0040 0x0040 .ioError).faulted = false ∧ (blk 0x0040 0x0040 .ioError).writeOutcome = .ioError := by decide

/-- A block whose read is answered with a good frame, one whose answer is too short, and one whose read fails. -/
theorem witness_EveryReadEndsOneWay :
    framedBlk.faulted = false ∧ (blk 0x0048 0x0048 .ok (.bytes [])).faulted = false ∧
    (blk 0x0040 0x0040 .ok .ioError).faulted = false := by decide

/-- Every one of the five ends of a register read. -/
theorem witness_XrdReadsTheRegister :
    (3 : Byte) ≤ 3 ∧ (0 : Byte) ≤ 3 ∧ framedBlk.faulted = false ∧ ReadEnds framedBlk 1 2 (.ok [0x00, 0x40]) ∧
    ReadEnds (blk 0x0040 0x0040 .ok (.bytes [])) 3 0 (.ok []) ∧
    ReadEnds (blk 0x0040 0x0040) 0 2 (.error (.transportError 0)) ∧
    ReadEnds (blk 0x0048 0x0048 .ok (.bytes [0x00, 0x40])) 1 2 (.error (.busContractViolation 1 3 2)) ∧
    ReadEnds (blk 0x0048 0x0048 .ok (.bytes [0x00, 0x40, 0xFA])) 1 2 (.error (.checksumMismatch 1 0xB6 0xFA)) :=
  ⟨by decide, by decide, rfl, (checkAnswer_iff _ _ _ _).mp (by decide), (checkAnswer_iff _ _ _ _).mp (by decide),
    (checkAnswer_iff _ _ _ _).mp (by decide), (checkAnswer_iff _ _ _ _).mp (by decide),
    (checkAnswer_iff _ _ _ _).mp (by decide)⟩

theorem witness_CommitWritesThenCopies :
    framedBlk.faulted = false ∧ framedBlk.writeOutcome = .ok ∧
    (blk 0x0140 0x0040 .ioError).faulted = false ∧ (blk 0x0140 0x0040 .ioError).writeOutcome = .ioError := by decide

theorem witness_RefreshLoadsActive :
    framedBlk.faulted = false ∧ ReadEnds framedBlk 1 2 (.ok [0x00, 0x40]) ∧
    ReadEnds (blk 0x0040 0x0040) 1 2 (.error (.transportError 1)) :=
  ⟨rfl, (checkAnswer_iff _ _ _ _).mp (by decide), (checkAnswer_iff _ _ _ _).mp (by decide)⟩

/-- For each of the three registers, an answer that is decoded; and one that is not. -/
theorem witness_TemperatureRegistersDecodeWithTheActiveFormat :
    (blk 0x00C0 0x00C0 .ok (.bytes [0x19, 0x80])).faulted = false ∧
    ReadEnds (blk 0x00C0 0x00C0 .ok (.bytes [0x19, 0x80])) 0 2 (.ok [0x19, 0x80]) ∧
    ReadEnds (blk 0x00C0 0x00C0 .ok (.bytes [0x19, 0x80])) 2 2 (.ok [0x19, 0x80]) ∧
    ReadEnds (blk 0x00C0 0x00C0 .ok (.bytes [0x19, 0x80])) 3 2 (.ok [0x19, 0x80]) ∧
    ReadEnds (blk 0x0040 0x0040 .ok (.bytes [0x19])) 0 2 (.error (.busContractViolation 0 2 1)) :=
  ⟨rfl, (checkAnswer_iff _ _ _ _).mp (by decide), (checkAnswer_iff _ _ _ _).mp (by decide),
    (checkAnswer_iff _ _ _ _).mp (by decide), (checkAnswer_iff _ _ _ _).mp (by decide)⟩

/-- A refused operand, 75.0 with a write that succeeds, and 75.0 with one that fails. -/
theorem witness_ThresholdWritesEncodeWithTheActiveFormat :
    framedBlk.faulted = false ∧ TencRefuses framedBlk.params.encOverflow 0x7FF8000000000000 (formatOf framedBlk) ∧
    ¬ TencRefuses framedBlk.params.encOverflow 0x4052C00000000000 (formatOf framedBlk) ∧
    framedBlk.writeOutcome = .ok ∧ (blk 0x0040 0x0040 .ioError).faulted = false ∧
    ¬ TencRefuses (blk 0x0040 0x0040 .ioError).params.encOverflow 0x4052C00000000000
      (formatOf (blk 0x0040 0x0040 .ioError)) ∧
    (blk 0x0040 0x0040 .ioError).writeOutcome = .ioError :=
  ⟨rfl, (tempRejected_iff _ _ _).mp (by decide), fun h => absurd ((tempRejected_iff _ _ _).mpr h) (by decide), rfl,
    rfl, fun h => absurd ((tempRejected_iff _ _ _).mpr h) (by decide), rfl⟩

theorem witness_PecTransitionFramesTheCommit :
    framedBlk.faulted = false ∧ framedBlk.writeOutcome = .ok ∧ framedBlk.active.b1[3] = true := by decide

/-- Both values of the format. -/
theorem witness_FormatTakesEffectAtCommit :
    framedBlk.faulted = false ∧ framedBlk.writeOutcome = .ok ∧ (∃ s, exec (.setFmt 0) framedBlk = .next s) ∧
    (∃ s, exec (.setFmt 1) framedBlk = .next s) ∧ ∃ t, exec .rdt framedBlk = .next t :=
  ⟨rfl, rfl, ⟨_, rfl⟩, ⟨_, rfl⟩, ⟨_, rfl⟩⟩

/-- The two ends of the offsets. -/
theorem witness_HeaderBytesAreShiftedAddresses :
    (∃ s, State.construct 0 defaultParams = some s) ∧ ∃ s, State.construct 7 defaultParams = some s :=
  ⟨⟨_, rfl⟩, ⟨_, rfl⟩⟩

end Sys2Proof.Tests
end

section
/-!
What a decoded command, an end of a command and a step do to each part of the state, and from it the statements about
the block as a whole (00_scope.md).
-/

namespace Sys2Proof.Machine

/-! ### Decoded commands name a register of the map (30_encoding.md R53, R55) -/

/-- What decodes comes from a row of the opcode map. -/
theorem exists_row_of_decode {c : Command} {i : Instr} (h : decode c = .ok i) :
    ∃ row ∈ opcodeRows, rowMatches c.op row = true ∧ row.build c.op c.ports = i := by
  unfold decode at h
  split at h
  · next row hrow =>
    cases h
    exact ⟨row, List.mem_of_find?_eq_some hrow, List.find?_some hrow, rfl⟩
  · cases h

/-- Format X has two bits for the register id. -/
theorem regOfOp_le (op : Byte) : regOfOp op ≤ 3 := by
  rw [regOfOp, BitVec.le_def, BitVec.toNat_and]
  exact Nat.and_le_right

@[simp] theorem fins_wellFormed (f : FieldId) (b : Byte) (v : Int) : (Instr.fins f b v).wellFormed = true := by
  cases f <;> rfl

@[simp] theorem fext_wellFormed (f : FieldId) (b : Byte) : (Instr.fext f b).wellFormed = true := by
  cases f <;> rfl

@[simp] theorem setField_wellFormed (f : FieldId) (v : Int) : (Instr.setField f v).wellFormed = true := by
  cases f <;> rfl

@[simp] theorem getp_wellFormed (f : FieldId) : (Instr.getp f).wellFormed = true := by cases f <;> rfl

@[simp] theorem geta_wellFormed (f : FieldId) : (Instr.geta f).wellFormed = true := by cases f <;> rfl

@[simp] theorem xwr_regOfOp_wellFormed (op : Byte) (data : List Byte) :
    (Instr.xwr (regOfOp op) data).wellFormed = true := decide_eq_true (regOfOp_le op)

@[simp] theorem xrd_regOfOp_wellFormed (op : Byte) (n : Nat) : (Instr.xrd (regOfOp op) n).wellFormed = true :=
  decide_eq_true (regOfOp_le op)

/-- Every row of the opcode map builds a well-formed command: format X by its two bits, format F for each field, and
the others whatever the ports hold. -/
theorem build_wellFormed {row : OpcodeRow} (h : row ∈ opcodeRows) (op : Byte) (p : Ports) :
    (row.build op p).wellFormed = true := by
  revert row
  simp only [opcodeRows, List.forall_mem_cons]
  exact ⟨rfl, rfl, rfl, rfl, rfl, fins_wellFormed _ _ _, fext_wellFormed _ _, setField_wellFormed _ _,
    getp_wellFormed _, geta_wellFormed _, rfl, rfl, xwr_regOfOp_wellFormed _ _, xrd_regOfOp_wellFormed _ _,
    rfl, rfl, rfl, rfl, rfl, rfl, rfl, List.forall_mem_nil _⟩

theorem wellFormed_of_decode {c : Command} {i : Instr} (h : decode c = .ok i) : i.wellFormed = true := by
  obtain ⟨row, hmem, -, rfl⟩ := exists_row_of_decode h
  exact build_wellFormed hmem _ _

/-! ### A field insert stays within its mask (43_config_fields.md R90) -/

/-- A value in the domain, shifted into place, has no bit outside the field's mask. -/
theorem placed_and_mask {f : FieldId} {v : Int} (h : f.inDomain v = true) :
    BitVec.ofNat 8 (v.toNat <<< f.shift) &&& f.mask = BitVec.ofNat 8 (v.toNat <<< f.shift) := by
  rcases inDomain_cases h with rfl | rfl | rfl | rfl <;> cases f <;> revert h <;> decide

/-- An insert leaves every bit outside the field's mask as it was. -/
theorem insert_and_of_disjoint {f : FieldId} {v : Int} {m : Byte} (hd : f.inDomain v = true)
    (hm : f.mask &&& m = 0) (b : Byte) : f.insert b v &&& m = b &&& m := by
  have hplace := placed_and_mask hd
  unfold FieldId.insert
  generalize BitVec.ofNat 8 (v.toNat <<< f.shift) = x at hplace
  ext j hj
  have hmj := congrArg (·[j]) hm
  have hpj := congrArg (·[j]) hplace
  simp only [BitVec.ofNat_eq_ofNat, BitVec.getElem_and, BitVec.getElem_or, BitVec.getElem_not, BitVec.getElem_zero]
    at hmj hpj ⊢
  grind

/-- The setters' writes to a copy leave byte0 alone outside the masks of byte0's fields. -/
theorem withByteOf_b0_and {f : FieldId} {v : Int} (hd : f.inDomain v = true) (c : ConfigWord) :
    (c.withByteOf f (f.insert (c.byteOf f) v)).b0 &&& 0xE4 = c.b0 &&& 0xE4 := by
  cases hs : f.byteSel with
  | b0 =>
    have hm : f.mask &&& 0xE4 = 0 := by cases f <;> revert hs <;> decide
    simpa [ConfigWord.withByteOf, ConfigWord.byteOf, hs] using insert_and_of_disjoint hd hm c.b0
  | b1 => simp [ConfigWord.withByteOf, hs]

/-- The setters' writes to a copy leave the oneShot bit of byte1 alone: no field's mask covers it. -/
theorem withByteOf_b1_and {f : FieldId} {v : Int} (hd : f.inDomain v = true) (c : ConfigWord) :
    (c.withByteOf f (f.insert (c.byteOf f) v)).b1 &&& 0x01 = c.b1 &&& 0x01 := by
  cases hs : f.byteSel with
  | b0 => simp [ConfigWord.withByteOf, hs]
  | b1 =>
    have hm : f.mask &&& 0x01 = 0 := by cases f <;> revert hs <;> decide
    simpa [ConfigWord.withByteOf, ConfigWord.byteOf, hs] using insert_and_of_disjoint hd hm c.b1

/-! ### What an end of a command does to each part of the state -/

@[simp] theorem answer_pending (q : Except Error Result) (s : State) : (answer q s).pending = s.pending := by
  cases q <;> rfl

@[simp] theorem answer_active (q : Except Error Result) (s : State) : (answer q s).active = s.active := by
  cases q <;> rfl

@[simp] theorem answer_history (q : Except Error Result) (s : State) : (answer q s).history = s.history := by
  cases q <;> rfl

@[simp] theorem answer_deviceAddress (q : Except Error Result) (s : State) :
    (answer q s).deviceAddress = s.deviceAddress := by cases q <;> rfl

@[simp] theorem answer_params (q : Except Error Result) (s : State) : (answer q s).params = s.params := by
  cases q <;> rfl

@[simp] theorem answer_commands (q : Except Error Result) (s : State) : (answer q s).commands = s.commands := by
  cases q <;> rfl

/-- An answer that raises no fault leaves the mark. -/
theorem answer_faulted {q : Except Error Result} (hq : ∀ e, q = .error e → e.isFault = false) (s : State) :
    (answer q s).faulted = s.faulted := by
  cases q with
  | ok r => rfl
  | error e => simp [hq e rfl]

/-- Enabling PEC writes `active` alone (43_config_fields.md R117). -/
theorem enableActivePec_eq (v : Int) (s : State) :
    enableActivePec v s = { s with active := (enableActivePec v s).active } := by
  unfold enableActivePec
  split <;> rfl

/-- Every result but an error's info goes with success. -/
theorem Result.status_of_ne_info {r : Result} (h : ∀ e, r ≠ .info e) : r.status = .success := by
  cases r with
  | info e => exact absurd rfl (h e)
  | _ => rfl

/-- No command changes the construction parameters or the commands to come (00_scope.md R5, R17, R71). -/
theorem Effect.frame {i : Instr} {s t : State} (h : Effect i s t) :
    t.deviceAddress = s.deviceAddress ∧ t.params = s.params ∧ t.commands = s.commands := by
  cases h with
  | report => simp
  | set f v =>
    rw [enableActivePec_eq]
    split <;> exact ⟨rfl, rfl, rfl⟩
  | _ => exact ⟨rfl, rfl, rfl⟩

/-- `pending` stays, or a setter inserts a value of its field's domain (10_state.md R20). -/
theorem Effect.pending_cases {i : Instr} {s t : State} (h : Effect i s t) :
    t.pending = s.pending ∨ ∃ f v, i = .setField f v ∧ f.inDomain v = true ∧
      t.pending = s.pending.withByteOf f (f.insert (s.pending.byteOf f) v) := by
  cases h with
  | report => exact .inl (answer_pending _ _)
  | set f v hi hd => exact .inr ⟨f, v, hi, hd, rfl⟩
  | _ => exact .inl rfl

/-- STATUS and RESULT belong together after every command (30_encoding.md R54). -/
theorem Effect.portsAgree {i : Instr} {s t : State} (h : Effect i s t) : t.status = t.result.status := by
  cases h with
  | report q hb hs hq hr =>
    cases q with
    | ok r => exact (Result.status_of_ne_info fun e he => hr e (congrArg _ he)).symm
    | error e => rfl
  | delivered reg n data r hi hr hn ho => exact (Result.status_of_ne_info hn).symm
  | _ => rfl

/-- The configuration register of COMMIT and REFRESH, id 1, is one of the map (20_memory.md R36, R40). -/
theorem configRegister_le : (1 : Byte).toNat ≤ 3 := by decide

/-- A command of a running block records nothing and sets no mark, or it records one transaction, with the block's own
device, and sets the mark exactly if that broke the length contract (20_memory.md R49, 60_exceptions.md R160, R161). -/
theorem Effect.history_cases {i : Instr} {s t : State} (h : Effect i s t) (hs : s.faulted = false) :
    (t.history = s.history ∧ t.faulted = false) ∨
      ∃ e, t.history = s.history ++ [e] ∧ e.address = s.deviceAddress ∧ (i.wellFormed = true → e.reg.toNat ≤ 3) ∧
        (t.faulted = true ↔ e.lengthKept = false) := by
  cases h with
  | report q hb hset hq hr => exact .inl ⟨answer_history q s, (answer_faulted hq s).trans hs⟩
  | set f v =>
    rw [enableActivePec_eq]
    split <;> exact .inl ⟨rfl, hs⟩
  | setRejected => exact .inl ⟨rfl, by simp [hs, Error.isFault]⟩
  | operandRejected => exact .inl ⟨rfl, by simp [hs, Error.isFault]⟩
  | wrote reg data hi hr ho => exact .inr ⟨_, rfl, rfl, hr, by simp [hs, BusEvent.lengthKept]⟩
  | committed hi ho =>
    exact .inr ⟨_, rfl, rfl, fun _ => configRegister_le, by simp [hs, BusEvent.lengthKept]⟩
  | writeFailed reg data hi hr ho =>
    exact .inr ⟨_, rfl, rfl, hr, by simp [hs, Error.isFault, BusEvent.lengthKept]⟩
  | delivered reg n data r hi hr hn ho =>
    obtain ⟨xs, hx, hl⟩ := ho.answer_of_ok
    exact .inr ⟨_, rfl, rfl, hr, by simp [hs, hx, hl, BusEvent.lengthKept]⟩
  | refreshed b0 b1 hi ho =>
    obtain ⟨xs, hx, hl⟩ := ho.answer_of_ok
    exact .inr ⟨_, rfl, rfl, fun _ => configRegister_le, by simp [hs, hx, hl, BusEvent.lengthKept]⟩
  | readFailed reg n e hi hr ho =>
    refine .inr ⟨_, rfl, rfl, hr, ?_⟩
    cases hx : s.readOutcome (wireLength s n) with
    | ioError => simp [hs, ho.isFault_iff, hx, BusEvent.lengthKept]
    | bytes xs => simp [hs, ho.isFault_iff, hx, BusEvent.lengthKept]

/-- An error that sets the mark of a running block is the breach. -/
theorem raise_status_of_faulted {e : Error} {s : State} (hs : s.faulted = false)
    (he : (raise e s).faulted = true) : (raise e s).status = .busContractViolation := by
  obtain ⟨reg, m, k, rfl⟩ := (isFault_iff e).mp (by simpa [hs] using he)
  rfl

/-- A command of a running block that sets the mark shows the breach (60_exceptions.md R160). -/
theorem Effect.status_of_faulted {i : Instr} {s t : State} (h : Effect i s t) (hs : s.faulted = false)
    (ht : t.faulted = true) : t.status = .busContractViolation := by
  cases h with
  | report q hb hset hq hr => simp [answer_faulted hq, hs] at ht
  | set f v =>
    rw [enableActivePec_eq] at ht
    split at ht <;> simp [hs] at ht
  | wrote => simp [hs] at ht
  | committed => simp [hs] at ht
  | delivered => simp [hs] at ht
  | refreshed => simp [hs] at ht
  | _ => exact raise_status_of_faulted hs ht

/-- A command that ends with an error leaves the copies and shows the error's code (00_scope.md R16, 60_exceptions.md
R162): the ends that write a copy are those with a result. -/
theorem Effect.copies_of_info {i : Instr} {s t : State} {e : Error} (h : Effect i s t) (he : t.result = .info e) :
    t.pending = s.pending ∧ t.active = s.active ∧ t.status = e.status := by
  have hstatus : t.status = e.status := by rw [h.portsAgree, he]; rfl
  cases h with
  | report => exact ⟨answer_pending _ _, answer_active _ _, hstatus⟩
  | set => cases he
  | committed => cases he
  | refreshed => cases he
  | _ => exact ⟨rfl, rfl, hstatus⟩

/-! ### What a step does -/

/-- A step with an assigned or an unassigned opcode ends as some well-formed command does, once the presented command
is taken off; IllegalCommand ends as a command that only computes does. -/
theorem step_effect {s t : State} (h : step s = .next t) :
    s.faulted = false ∧ ∃ i rest, i.wellFormed = true ∧ Effect i { s with commands := rest } t := by
  obtain ⟨hf, c, rest, -, ⟨i, hd, he⟩ | rfl⟩ := step_next h
  · exact ⟨hf, i, rest, wellFormed_of_decode hd, (exec_effect he).2⟩
  · exact ⟨hf, .rdp, rest, rfl, .report (.error (.illegalCommand c.op)) rfl rfl (by rintro _ ⟨⟩; rfl) (by simp)⟩

/-- The invariant does not read the commands to come. -/
theorem State.Inv.withCommands {s : State} (h : s.Inv) (cs : List Command) : ({ s with commands := cs } : State).Inv :=
  ⟨h.address, h.reservedClear, h.oneShotClear, h.portsAgree, h.ownDevice, h.faultedIff, h.faultedShown⟩

/-- In a running block every recorded transaction kept the length contract. -/
theorem State.Inv.lengthKept_of_running {s : State} (h : s.Inv) (hf : s.faulted = false) :
    ¬ ∃ e ∈ s.history, e.lengthKept = false := by
  rw [← h.faultedIff, hf]
  exact Bool.false_ne_true

/-- Every end of a well-formed command keeps the invariant. -/
theorem State.Inv.of_effect {i : Instr} {s t : State} (hs : s.Inv) (hf : s.faulted = false)
    (hw : i.wellFormed = true) (h : Effect i s t) : t.Inv where
  address := by rw [h.frame.1]; exact hs.address
  reservedClear := by
    rcases h.pending_cases with hp | ⟨f, v, -, hd, hp⟩
    · rw [hp, hs.reservedClear]
    · rw [hp, withByteOf_b0_and hd, hs.reservedClear]
  oneShotClear := by
    rcases h.pending_cases with hp | ⟨f, v, -, hd, hp⟩
    · rw [hp, hs.oneShotClear]
    · rw [hp, withByteOf_b1_and hd, hs.oneShotClear]
  portsAgree := h.portsAgree
  ownDevice := by
    intro e he
    rw [h.frame.1]
    rcases h.history_cases hf with ⟨hh, -⟩ | ⟨e', hh, haddr, hreg, -⟩
    · exact hs.ownDevice e (hh ▸ he)
    · rw [hh, List.mem_append, List.mem_singleton] at he
      rcases he with he | rfl
      · exact hs.ownDevice e he
      · exact ⟨haddr, hreg hw⟩
  faultedIff := by
    have hkept := hs.lengthKept_of_running hf
    rcases h.history_cases hf with ⟨hh, ht⟩ | ⟨e, hh, -, -, ht⟩
    · simpa [hh, ht] using hkept
    · simp only [hh, ht, List.mem_append, List.mem_singleton, or_and_right, exists_or, hkept, false_or, exists_eq_left]
  faultedShown := h.status_of_faulted hf

/-- The address of an offset that R5 accepts, without wrapping in 7 bits. -/
theorem deviceAddressOf_toNat {off : Nat} (h : off ≤ 7) : (deviceAddressOf off).toNat = 0x48 + off := by
  rw [deviceAddressOf, BitVec.toNat_add, BitVec.toNat_ofNat]
  show (0x48 + off % 2 ^ 7) % 2 ^ 7 = _
  omega

/-- A construction is accepted exactly for the offsets 0..7, and then gives `State.built` (00_scope.md R5). -/
theorem construct_eq_some_iff {off : Nat} {p : Params} {s : State} :
    State.construct off p = some s ↔ off ≤ 7 ∧ s = State.built off p := by
  unfold State.construct
  split <;> simp_all [eq_comm]

/-- A block just constructed has the invariant: the power-on copies have the reserved bits clear, and nothing is
recorded. -/
theorem built_inv {off : Nat} (h : off ≤ 7) (p : Params) : (State.built off p).Inv where
  address := by
    have haddr : (State.built off p).deviceAddress.toNat = 0x48 + off := deviceAddressOf_toNat h
    omega
  reservedClear := (by decide : powerOnConfig.b0 &&& 0xE4 = 0)
  oneShotClear := (by decide : powerOnConfig.b1 &&& 0x01 = 0)
  portsAgree := rfl
  ownDevice := by simp [State.built]
  faultedIff := by simp [State.built]
  faultedShown := by simp [State.built]

/-! ### The byte pair TENC gives (42_temperature.md R78, R79) -/

/-- TENC of an operand that is not refused. -/
theorem exec_tenc_of_not_refused {s : State} {t : Binary64} {f : Bit} (hf : s.faulted = false)
    (hr : ¬ TencRefuses s.params.encOverflow t f) :
    exec (.tenc t f) s = .next { s with status := .success, result := .pair (tencUpper t f) (tencLower t f) } := by
  show execTenc t f s = _
  rw [execTenc, (tempEncode_eq _ _ _).2 hr]
  exact command_of_running hf

theorem tencUpper_toNat (t : Binary64) (f : Bit) :
    (tencUpper t f).toNat = sixteenths t / 2 ^ (8 - pOf f) % 128 + if t.toRat < 0 then 128 else 0 := by
  rw [tencUpper, BitVec.toNat_ofNat]
  split <;> omega

theorem tencLower_toNat (t : Binary64) (f : Bit) : (tencLower t f).toNat = sixteenths t * 2 ^ pOf f % 256 := by
  rw [tencLower, BitVec.toNat_ofNat]
  omega

/-- The pair holds the low `15 - p` bits of the magnitude, whatever its size. -/
theorem tenc_pair_magnitude (t : Binary64) (f : Bit) :
    (tencUpper t f).toNat % 128 * 2 ^ (8 - pOf f) + (tencLower t f).toNat / 2 ^ pOf f =
      sixteenths t % 2 ^ (15 - pOf f) := by
  have hsign : (tencUpper t f).toNat % 128 = sixteenths t / 2 ^ (8 - pOf f) % 128 := by
    rw [tencUpper_toNat]
    split <;> omega
  rw [hsign, tencLower_toNat]
  rcases pOf_cases f with hp | hp <;> rw [hp] <;> omega

/-- Bit 7 of the upper byte is the sign of a value below zero. -/
theorem tencUpper_bit7 (t : Binary64) (f : Bit) : (tencUpper t f)[7] = true ↔ t.toRat < 0 := by
  have hmsb : (tencUpper t f)[7] = decide (2 ^ 7 ≤ (tencUpper t f).toNat) :=
    BitVec.msb_eq_decide (tencUpper t f)
  have hlow : sixteenths t / 2 ^ (8 - pOf f) % 128 < 128 := Nat.mod_lt _ (by decide)
  rw [hmsb, decide_eq_true_iff, tencUpper_toNat]
  by_cases hneg : t.toRat < 0
  · simp only [hneg, if_true, iff_true]; omega
  · simp only [hneg, if_false, iff_false]; omega

/-- The low `p` bits of the lower byte are 0. -/
theorem tencLower_mod (t : Binary64) (f : Bit) : (tencLower t f).toNat % 2 ^ pOf f = 0 := by
  rw [tencLower_toNat]
  rcases pOf_cases f with hp | hp <;> rw [hp] <;> omega

/-! ### The statements -/

/-- Settles O11: a step's end keeps the invariant, as every end of a well-formed command does. -/
theorem stepKeepsTheInvariant : Obligations.StepKeepsTheInvariant := by
  intro s t hs h
  obtain ⟨hf, i, rest, hw, heff⟩ := step_effect h
  exact (hs.withCommands rest).of_effect hf hw heff

/-- Settles O8: construction fixes the address, and every end of a command frames it. -/
theorem deviceAddressIsFixedAtConstruction : Obligations.DeviceAddressIsFixedAtConstruction := by
  refine ⟨fun off p => by simp [construct_eq_some_iff], fun off p s h => ?_, fun s t h => ?_⟩
  · obtain ⟨hoff, rfl⟩ := construct_eq_some_iff.mp h
    have haddr : (State.built off p).deviceAddress.toNat = 0x48 + off := deviceAddressOf_toNat hoff
    exact ⟨haddr, by omega⟩
  · obtain ⟨-, i, rest, -, heff⟩ := step_effect h
    obtain ⟨haddr, hparams, -⟩ := heff.frame
    exact ⟨haddr, hparams⟩

/-- Settles O16: an end with an error is none of those that write a copy. -/
theorem errorsLeaveTheCopies : Obligations.ErrorsLeaveTheCopies := by
  intro i s t e h he
  have heff := (exec_effect h).2
  obtain ⟨haddr, hparams, hcommands⟩ := heff.frame
  obtain ⟨hpending, hactive, hstatus⟩ := heff.copies_of_info he
  exact ⟨hpending, hactive, haddr, hparams, hcommands, hstatus⟩

/-- Settles O27: the masks keep `15 - p` bits of the magnitude and put the sign above them. -/
theorem outOfRangeMagnitudeWraps : Obligations.OutOfRangeMagnitudeWraps := by
  intro s t f hf hpolicy hr
  exact ⟨tencUpper t f, tencLower t f, exec_tenc_of_not_refused hf (hpolicy ▸ hr), tenc_pair_magnitude t f,
    tencUpper_bit7 t f, tencLower_mod t f⟩

/-- Settles O6: the step's three choices (running, a command presented, an opcode assigned) are the hypotheses. -/
theorem stepRunsTheDecodedCommand : Obligations.StepRunsTheDecodedCommand := by
  intro s c rest i hf hc hd
  have hfetch : fetch s = some (c, { s with commands := rest }) := by simp [fetch, hc]
  simp [step, hf, hfetch, hd]

/-- Settles O12: every construction, the reset state's with offset 0 included, is a `State.built`. -/
theorem constructedBlockHasTheInvariant : Obligations.ConstructedBlockHasTheInvariant := by
  refine ⟨fun off p s h => ?_, built_inv (Nat.zero_le 7) defaultParams⟩
  obtain ⟨hoff, rfl⟩ := construct_eq_some_iff.mp h
  exact built_inv hoff p

end Sys2Proof.Machine
end

section
/-!
The state of the block (10_state.md): what each end of a command does to the fault mark and the two copies, and what
each command reads of the state. The noninterference statements follow from the second: `exec_body` says once which
parts of the state the meaning of a command looks at.
-/

namespace Sys2Proof.Machine

/-! ### The fault mark (10_state.md R33) -/

/-- A command that ends with an error adds the error's fault to the mark. -/
theorem Effect.faulted_of_info {i : Instr} {s t : State} {e : Error} (h : Effect i s t) (he : t.result = .info e) :
    t.faulted = (s.faulted || e.isFault) := by
  cases h with
  | report q hb hs hq hr =>
    cases q with
    | ok r => exact absurd (congrArg _ he) (hr e)
    | error e' => cases he; rfl
  | delivered reg n data r hi hr hn ho => exact absurd he (hn e)
  | set => cases he
  | wrote => cases he
  | committed => cases he
  | refreshed => cases he
  | _ => cases he; rfl

/-- Only the breach's info goes with STATUS BusContractViolation (60_exceptions.md R154). -/
theorem Result.info_of_status {r : Result} (h : r.status = .busContractViolation) :
    ∃ reg m k, r = .info (.busContractViolation reg m k) := by
  cases r with
  | info e =>
    cases e with
    | busContractViolation reg m k => exact ⟨reg, m, k, rfl⟩
    | _ => cases h
  | _ => cases h

/-- A command of a running block sets the mark exactly when it ends with BusContractViolation. -/
theorem Effect.faulted_iff {i : Instr} {s t : State} (h : Effect i s t) (hs : s.faulted = false) :
    t.faulted = true ↔ ∃ reg m k, t.result = .info (.busContractViolation reg m k) := by
  constructor
  · intro ht
    exact Result.info_of_status (h.portsAgree ▸ h.status_of_faulted hs ht)
  · rintro ⟨reg, m, k, he⟩
    rw [h.faulted_of_info he, hs]
    rfl

/-! ### The writers of the copies (10_state.md R20, R21) -/

@[simp] theorem byteOf_withByteOf_self (c : ConfigWord) (f : FieldId) (b : Byte) :
    (c.withByteOf f b).byteOf f = b := by
  cases hf : f.byteSel <;> simp [ConfigWord.byteOf, ConfigWord.withByteOf, hf]

/-- Writing a field's byte leaves the other byte of the copy. -/
theorem byteOf_withByteOf_of_ne {f g : FieldId} (h : g.byteSel ≠ f.byteSel) (c : ConfigWord) (b : Byte) :
    (c.withByteOf f b).byteOf g = c.byteOf g := by
  cases hf : f.byteSel <;> cases hg : g.byteSel <;>
    simp_all [ConfigWord.byteOf, ConfigWord.withByteOf]

/-- A setter names its field. -/
theorem field_eq_of_setField_eq {f g : FieldId} {v w : Int} (h : Instr.setField f v = .setField g w) : f = g := by
  cases f <;> cases g <;> cases h <;> rfl

/-- What a setter does to `pending`: it leaves the copy, or inserts a value of the domain into the field it names. -/
theorem Effect.pending_of_setField {f : FieldId} {v : Int} {s t : State} (h : Effect (.setField f v) s t) :
    t.pending = s.pending ∨ ∃ w, f.inDomain w = true ∧
      t.pending = s.pending.withByteOf f (f.insert (s.pending.byteOf f) w) := by
  obtain hp | ⟨g, w, hi, hd, hp⟩ := h.pending_cases
  · exact .inl hp
  · obtain rfl := field_eq_of_setField_eq hi
    exact .inr ⟨w, hd, hp⟩

/-- SET.PEC writes `active` only to enable PEC (43_config_fields.md R117). -/
theorem enableActivePec_active (v : Int) (s : State) :
    (enableActivePec v s).active = s.active ∨
      v = 1 ∧ (enableActivePec v s).active = { s.active with b1 := s.active.b1 ||| 0x08 } := by
  unfold enableActivePec
  split
  · next hv => exact .inr ⟨hv, rfl⟩
  · exact .inl rfl

/-- `active` stays, or the command is one of its three writers and succeeded (10_state.md R21). -/
theorem Effect.active_cases {i : Instr} {s t : State} (h : Effect i s t) :
    t.active = s.active ∨ (i = .commit ∧ t.status = .success ∧ t.active = s.pending) ∨
      (i = .refresh ∧ t.status = .success) ∨
      (i = .setPec 1 ∧ t.active = { s.active with b1 := s.active.b1 ||| 0x08 }) := by
  cases h with
  | report => exact .inl (answer_active _ _)
  | set f v hi hd =>
    by_cases hf : f = .pec
    · subst hf
      obtain ha | ⟨rfl, ha⟩ := enableActivePec_active v s
      · exact .inl ha
      · exact .inr (.inr (.inr ⟨hi, ha⟩))
    · exact .inl (by simp [hf])
  | committed hi ho => exact .inr (.inl ⟨hi, rfl, rfl⟩)
  | refreshed b0 b1 hi ho => exact .inr (.inr (.inl ⟨hi, rfl⟩))
  | _ => exact .inl rfl

/-! ### What a command reads -/

/-- `q` reads of the state only what is fixed at construction: the parameters and the address. -/
def ReadsOnlyConstants (q : State → Except Error Result) : Prop :=
  ∀ s s' : State, s'.params = s.params → s'.deviceAddress = s.deviceAddress → q s' = q s

/-- The meanings of the commands, by what they read of the state. -/
inductive Body (i : Instr) : (State → State) → Prop where
  /-- a command that computes with its operands and the constants -/
  | compute (q : State → Except Error Result) (hq : ReadsOnlyConstants q) : Body i fun s => answer (q s) s
  /-- a command that shows `pending` or a field of it -/
  | showPending (g : ConfigWord → Result) (hi : i.readsPending = true) : Body i fun s => finish (g s.pending) s
  /-- a command that shows `active` or a field of it -/
  | showActive (g : ConfigWord → Result) (hi : i.showsActive = true) : Body i fun s => finish (g s.active) s
  /-- a setter of a field other than PEC -/
  | set (f : FieldId) (v : Int) (hi : i.isSetter = true) : Body i (setCommand f v)
  /-- SET.PEC -/
  | setPec (v : Int) (hi : i.isSetter = true) : Body i (setPecCommand v)
  /-- XWR -/
  | write (reg : Byte) (data : List Byte) : Body i (writeCommand reg data)
  /-- WRTH: the data depend on the format bit -/
  | writeTemperature (reg : Byte) (t : Binary64) : Body i (writeTemperature reg t)
  /-- XRD, RDT and RDTH: the result is made of the data and the format bit -/
  | read (reg : Byte) (n : Nat) (g : Bit → List Byte → Result) :
      Body i fun s => answer ((readRegister reg n s).1.map (g s.activeFormat)) (readRegister reg n s).2
  /-- COMMIT -/
  | commit (hi : i.readsPending = true) : Body i commitCommand
  /-- REFRESH -/
  | refresh : Body i refreshCommand

/-- A result without any look at the state. -/
theorem readsOnlyConstants_const (q : Except Error Result) : ReadsOnlyConstants fun _ => q := fun _ _ _ _ => rfl

theorem readsOnlyConstants_crc8 (data : List Byte) :
    ReadsOnlyConstants fun s => .ok (.byte (crc8 s.params.crc8Table data)) := fun _ _ hp _ => by simp only [hp]

theorem readsOnlyConstants_tempEncode (t : Binary64) (f : Bit) :
    ReadsOnlyConstants fun s => (tempEncode s.params.encOverflow t f).map fun p => .pair p.1 p.2 :=
  fun _ _ hp _ => by simp only [hp]

theorem readsOnlyConstants_pecFrame (reg : Byte) (data : List Byte) :
    ReadsOnlyConstants fun s => .ok (.bytes (pecFrame s reg data)) :=
  fun _ _ hp ha => by simp only [pecFrame, writeCrc, hp, ha]

theorem readsOnlyConstants_pecCheck (reg : Byte) (rx : List Byte) :
    ReadsOnlyConstants fun s =>
      if rx = [] then .error (.invalidOperand (.rx rx)) else (pecCheck s reg rx).map .bytes := by
  intro s s' hp ha
  have hcrc : ∀ data, readCrc s' reg data = readCrc s reg data := fun data => by simp only [readCrc, hp, ha]
  have hcheck : pecCheck s' reg rx = pecCheck s reg rx := by rw [pecCheck, pecCheck, hcrc]
  simp only [hcheck]

theorem fins_body {i : Instr} (f : FieldId) (b : Byte) (v : Int) : Body i (finsCommand f b v) :=
  .compute _ (readsOnlyConstants_const ((fieldInsert f b v).map .byte))

theorem fext_body {i : Instr} (f : FieldId) (b : Byte) : Body i (fextCommand f b) :=
  .compute _ (readsOnlyConstants_const (.ok (.value (f.extract b))))

theorem getp_body {i : Instr} (f : FieldId) (hi : i.readsPending = true) : Body i (getpCommand f) :=
  .showPending (fun c => .value (f.extract (c.byteOf f))) hi

theorem geta_body {i : Instr} (f : FieldId) (hi : i.showsActive = true) : Body i (getaCommand f) :=
  .showActive (fun c => .value (f.extract (c.byteOf f))) hi

theorem readTemperature_body {i : Instr} (reg : Byte) : Body i (readTemperature reg) :=
  .read reg 2 fun f rx => .temperature (tempDecode (rx.getD 0 0) (rx.getD 1 0) f)

/-- Every command is one of the bodies, guarded by the fault mark. -/
theorem exec_body (i : Instr) : ∃ body, Body i body ∧ ∀ s, exec i s = command body s := by
  cases i with
  | crc8 data => exact ⟨_, .compute _ (readsOnlyConstants_crc8 data), fun _ => rfl⟩
  | pecw reg data => exact ⟨_, .compute _ (readsOnlyConstants_pecFrame reg data), fun _ => rfl⟩
  | pecr reg rx => exact ⟨_, .compute _ (readsOnlyConstants_pecCheck reg rx), fun _ => rfl⟩
  | tenc t f => exact ⟨_, .compute _ (readsOnlyConstants_tempEncode t f), fun _ => rfl⟩
  | tdec u l f =>
    exact ⟨_, .compute _ (readsOnlyConstants_const (.ok (.temperature (tempDecode u l f)))), fun _ => rfl⟩
  | finsShdn b v | finsCmpint b v | finsFq b v | finsCr b v | finsPec b v | finsTo b v | finsRes b v | finsFmt b v =>
    exact ⟨_, fins_body _ b v, fun _ => rfl⟩
  | fextShdn b | fextCmpint b | fextFq b | fextCr b | fextPec b | fextTo b | fextRes b | fextFmt b =>
    exact ⟨_, fext_body _ b, fun _ => rfl⟩
  | setShdn v | setCmpint v | setFq v | setCr v | setTo v | setRes v | setFmt v =>
    exact ⟨_, .set _ v rfl, fun _ => rfl⟩
  | setPec v => exact ⟨_, .setPec v rfl, fun _ => rfl⟩
  | getpShdn | getpCmpint | getpFq | getpCr | getpPec | getpTo | getpRes | getpFmt =>
    exact ⟨_, getp_body _ rfl, fun _ => rfl⟩
  | getaShdn | getaCmpint | getaFq | getaCr | getaPec | getaTo | getaRes | getaFmt =>
    exact ⟨_, geta_body _ rfl, fun _ => rfl⟩
  | rdp => exact ⟨_, .showPending (fun c => .image c.b0 c.b1) rfl, fun _ => rfl⟩
  | rda => exact ⟨_, .showActive (fun c => .image c.b0 c.b1) rfl, fun _ => rfl⟩
  | xwr reg data => exact ⟨_, .write reg data, fun _ => rfl⟩
  | xrd reg n => exact ⟨_, .read reg n fun _ => .bytes, fun _ => rfl⟩
  | commit => exact ⟨_, .commit rfl, fun _ => rfl⟩
  | refresh => exact ⟨_, .refresh, fun _ => rfl⟩
  | rdt | rdthHyst | rdthTos => exact ⟨_, readTemperature_body _, fun _ => rfl⟩
  | wrthHyst t | wrthTos t => exact ⟨_, .writeTemperature _ t, fun _ => rfl⟩

/-! ### Updates that ends and transactions carry along -/

/-- The update `u` of the state `s` touches nothing that ends of commands and register transactions read: they do the
same after it, and keep it. -/
structure CarriedAlong (u : State → State) (s : State) : Prop where
  params : (u s).params = s.params
  address : (u s).deviceAddress = s.deviceAddress
  format : (u s).activeFormat = s.activeFormat
  ending : ∀ q s', answer q (u s') = u (answer q s')
  reading : ∀ reg n, readRegister reg n (u s) = ((readRegister reg n s).1, u (readRegister reg n s).2)
  writing : ∀ reg data, writeRegister reg data (u s) = ((writeRegister reg data s).1, u (writeRegister reg data s).2)

namespace CarriedAlong

variable {u : State → State} {s : State}

theorem compute_eq (h : CarriedAlong u s) {q : State → Except Error Result} (hq : ReadsOnlyConstants q) :
    answer (q (u s)) (u s) = u (answer (q s) s) := by
  rw [hq s (u s) h.params h.address, h.ending]

theorem writeCommand_eq (h : CarriedAlong u s) (reg : Byte) (data : List Byte) :
    writeCommand reg data (u s) = u (writeCommand reg data s) := by
  simp only [writeCommand, h.writing, h.ending]

theorem writeTemperature_eq (h : CarriedAlong u s) (reg : Byte) (t : Binary64) :
    writeTemperature reg t (u s) = u (writeTemperature reg t s) := by
  rw [writeTemperature, writeTemperature, h.params, h.format]
  cases tempEncode s.params.encOverflow t s.activeFormat with
  | ok p => exact h.writeCommand_eq reg _
  | error e => exact h.ending (.error e) s

theorem read_eq (h : CarriedAlong u s) (reg : Byte) (n : Nat) (g : Bit → List Byte → Result) :
    answer ((readRegister reg n (u s)).1.map (g (u s).activeFormat)) (readRegister reg n (u s)).2 =
      u (answer ((readRegister reg n s).1.map (g s.activeFormat)) (readRegister reg n s).2) := by
  rw [h.reading, h.format, h.ending]

end CarriedAlong

/-! ### The history (10_state.md R32) -/

/-- The state with the events `p` recorded before those of its history. -/
def State.withEarlier (p : List BusEvent) (s : State) : State := { s with history := p ++ s.history }

/-- Ends and transactions append to whatever is recorded. -/
theorem withEarlier_carriedAlong (p : List BusEvent) (s : State) : CarriedAlong (State.withEarlier p) s where
  params := rfl
  address := rfl
  format := rfl
  ending q s' := by cases q <;> rfl
  reading reg n := by
    simp only [readRegister, busRead, State.withEarlier, List.append_assoc]
    rfl
  writing reg data := by
    simp only [writeRegister_eq, State.afterWrite, State.withEarlier, List.append_assoc]
    rfl

theorem setCommand_withEarlier (f : FieldId) (v : Int) (p : List BusEvent) (s : State) :
    setCommand f v (s.withEarlier p) = (setCommand f v s).withEarlier p := by
  rw [setCommand_eq, setCommand_eq]
  split <;> rfl

theorem enableActivePec_withEarlier (v : Int) (p : List BusEvent) (s : State) :
    enableActivePec v (s.withEarlier p) = (enableActivePec v s).withEarlier p := by
  unfold enableActivePec
  split <;> rfl

/-- Earlier events stay in front of what a command records, and change nothing else of what it does. -/
theorem Body.withEarlier {i : Instr} {body : State → State} (h : Body i body) (p : List BusEvent) (s : State) :
    body (s.withEarlier p) = (body s).withEarlier p := by
  have hu := withEarlier_carriedAlong p s
  cases h with
  | compute q hq => exact hu.compute_eq hq
  | showPending g => rfl
  | showActive g => rfl
  | set f v => exact setCommand_withEarlier f v p s
  | setPec v => rw [setPecCommand, enableActivePec_withEarlier, setCommand_withEarlier, setPecCommand]
  | write reg data => exact hu.writeCommand_eq reg data
  | writeTemperature reg t => exact hu.writeTemperature_eq reg t
  | read reg n g => exact hu.read_eq reg n g
  | commit =>
    have hw : writeRegister 1 (s.withEarlier p).pending.image (s.withEarlier p) = _ := hu.writing 1 s.pending.image
    simp only [commitCommand, hw]
    cases (writeRegister 1 s.pending.image s).1 <;> rfl
  | refresh =>
    simp only [refreshCommand, hu.reading]
    cases (readRegister 1 2 s).1 <;> rfl

/-- A command appends the same events to any history, and does the same in every other field. -/
theorem Body.exists_appended {i : Instr} {body : State → State} (h : Body i body) (s : State) :
    ∃ es, ∀ past, body { s with history := past } = { body s with history := past ++ es } := by
  have hrun : ∀ past, body { s with history := past } = (body { s with history := [] }).withEarlier past := by
    intro past
    rw [← h.withEarlier]
    simp only [State.withEarlier, List.append_nil]
  have hs : body s = (body { s with history := [] }).withEarlier s.history := hrun s.history
  refine ⟨(body { s with history := [] }).history, fun past => ?_⟩
  rw [hrun past, hs]
  rfl

/-! ### The readers of `pending` (10_state.md R20) -/

theorem withPending_carriedAlong (c : ConfigWord) (s : State) :
    CarriedAlong (fun s => { s with pending := c }) s where
  params := rfl
  address := rfl
  format := rfl
  ending q s' := by cases q <;> rfl
  reading reg n := rfl
  writing reg data := by simp only [writeRegister_eq]; rfl

/-- A command that neither reads nor sets `pending` carries it along. -/
theorem Body.withPending {i : Instr} {body : State → State} (h : Body i body) (hr : i.readsPending = false)
    (hset : i.isSetter = false) (c : ConfigWord) (s : State) :
    body { s with pending := c } = { body s with pending := c } := by
  have hu := withPending_carriedAlong c s
  cases h with
  | compute q hq => exact hu.compute_eq hq
  | showPending g hi => simp [hr] at hi
  | showActive g => rfl
  | set f v hi => simp [hset] at hi
  | setPec v hi => simp [hset] at hi
  | write reg data => exact hu.writeCommand_eq reg data
  | writeTemperature reg t => exact hu.writeTemperature_eq reg t
  | read reg n g => exact hu.read_eq reg n g
  | commit hi => simp [hr] at hi
  | refresh =>
    simp only [refreshCommand, hu.reading]
    cases (readRegister 1 2 s).1 <;> rfl

/-! ### The mode bits of `active` (10_state.md R28) -/

/-- Of `active`, transactions read the PEC bit alone, and the codec is given the format bit (44_transactions.md R138,
42_temperature.md R85). -/
theorem withActive_carriedAlong {c : ConfigWord} {s : State} (hpec : c.b1[3] = s.active.b1[3])
    (hfmt : c.b1[7] = s.active.b1[7]) : CarriedAlong (fun s => { s with active := c }) s where
  params := rfl
  address := rfl
  format := by simp only [activeFormat_eq, formatOf, hfmt]
  ending q s' := by cases q <;> rfl
  reading reg n := by
    simp only [readRegister, checkAnswer, pecOn_eq, hpec]
    rfl
  writing reg data := by
    simp only [writeRegister_eq, State.afterWrite, wireData, hpec]
    rfl

theorem setCommand_withActive (f : FieldId) (v : Int) (c : ConfigWord) (s : State) :
    setCommand f v { s with active := c } = { setCommand f v s with active := c } := by
  rw [setCommand_eq, setCommand_eq]
  split <;> rfl

/-- SET.PEC is the generic setter but for `active` (43_config_fields.md R117). -/
theorem setPecCommand_eq (v : Int) (s : State) :
    setPecCommand v s = { setCommand .pec v s with active := (enableActivePec v s).active } := by
  rw [setPecCommand, enableActivePec_eq, setCommand_withActive]

/-- With equal mode bits, a command that does not show `active` does the same but for `active` itself. -/
theorem Body.withActive {i : Instr} {body : State → State} (h : Body i body) (hi : i.showsActive = false)
    {c : ConfigWord} {s : State} (hpec : c.b1[3] = s.active.b1[3]) (hfmt : c.b1[7] = s.active.b1[7]) :
    ∃ d, body { s with active := c } = { body s with active := d } := by
  have hu := withActive_carriedAlong hpec hfmt
  cases h with
  | compute q hq => exact ⟨c, hu.compute_eq hq⟩
  | showPending g => exact ⟨c, rfl⟩
  | showActive g hshow => simp [hi] at hshow
  | set f v => exact ⟨c, setCommand_withActive f v c s⟩
  | setPec v => exact ⟨_, by rw [setPecCommand_eq, setPecCommand_eq v s, setCommand_withActive]⟩
  | write reg data => exact ⟨c, hu.writeCommand_eq reg data⟩
  | writeTemperature reg t => exact ⟨c, hu.writeTemperature_eq reg t⟩
  | read reg n g => exact ⟨c, hu.read_eq reg n g⟩
  | commit =>
    simp only [commitCommand, hu.writing]
    cases (writeRegister 1 s.pending.image s).1 <;> exact ⟨_, rfl⟩
  | refresh =>
    simp only [refreshCommand, hu.reading]
    cases (readRegister 1 2 s).1 <;> exact ⟨_, rfl⟩

/-! ### The statements -/

/-- Settles O9: every end of a command sets the mark exactly with the breach's info, and the mark guards `exec` and
`step`. -/
theorem faultMarkStopsTheBlock : Obligations.FaultMarkStopsTheBlock := by
  refine ⟨fun off p s h => ?_, fun i s t h => ?_, fun s t h => ?_, fun s h => ⟨by simp [step, h], exec_of_faulted h⟩⟩
  · obtain ⟨-, rfl⟩ := construct_eq_some_iff.mp h
    rfl
  · obtain ⟨hf, heff⟩ := exec_effect h
    exact heff.faulted_iff hf
  · obtain ⟨hf, i, rest, -, heff⟩ := step_effect h
    exact heff.faulted_iff hf

/-- Settles O13: `pending` changes only by a setter's insert, which stays within its field's mask. -/
theorem onlySettersWritePending : Obligations.OnlySettersWritePending := by
  intro i s t h
  have heff := (exec_effect h).2
  constructor
  · intro hset
    obtain hp | ⟨f, v, hi, -, -⟩ := heff.pending_cases
    · exact hp
    · simp [(isSetter_iff i).mpr ⟨f, v, hi⟩] at hset
  · rintro f v rfl
    obtain hp | ⟨w, hd, hp⟩ := heff.pending_of_setField
    · simp [hp]
    · rw [hp, byteOf_withByteOf_self]
      exact ⟨insert_and_of_disjoint hd (BitVec.and_not_self f.mask) _, fun g hg => byteOf_withByteOf_of_ne hg _ _⟩

/-- Settles O14: the ends of a command that write `active` are those of its three writers. -/
theorem onlyThreeCommandsWriteActive : Obligations.OnlyThreeCommandsWriteActive :=
  fun _ _ _ h => (exec_effect h).2.active_cases

/-- Settles O17: a step ends as a well-formed command does, and each end records at most one transaction. -/
theorem stepPerformsAtMostOneTransaction : Obligations.StepPerformsAtMostOneTransaction := by
  intro s t h
  obtain ⟨hf, i, rest, hw, heff⟩ := step_effect h
  obtain ⟨hh, -⟩ | ⟨e, hh, haddr, hreg, -⟩ := heff.history_cases hf
  · exact .inl hh
  · exact .inr ⟨e, hh, haddr, hreg hw⟩

/-- Settles O18: the events appended to any history are those appended to the one of the state. -/
theorem historyIsNeverRead : Obligations.HistoryIsNeverRead := by
  intro i s t past ht
  obtain ⟨body, hbody, hexec⟩ := exec_body i
  obtain ⟨hf, rfl⟩ := command_next_iff.mp (hexec s ▸ ht)
  obtain ⟨es, hes⟩ := hbody.exists_appended s
  have hhistory : (body s).history = s.history ++ es := congrArg State.history (hes s.history)
  exact ⟨es, hhistory, (hexec _).trans (command_next_iff.mpr ⟨hf, (hes past).symm⟩)⟩

/-- Settles O19: the bodies that read `pending` are those of GETP, RDP, COMMIT and the setters. -/
theorem pendingIsReadOnlyByItsReaders : Obligations.PendingIsReadOnlyByItsReaders := by
  intro i s t c hr hset ht
  obtain ⟨body, hbody, hexec⟩ := exec_body i
  obtain ⟨hf, rfl⟩ := command_next_iff.mp (hexec s ▸ ht)
  exact (hexec _).trans (command_next_iff.mpr ⟨hf, (hbody.withPending hr hset c s).symm⟩)

/-- Settles O20: of `active` the bodies read its two mode bits, those of GETA and RDA apart; all that can then differ is
`active`. -/
theorem onlyPecAndFormatBitsOfActiveMatter : Obligations.OnlyPecAndFormatBitsOfActiveMatter := by
  intro i s t c hi hpec hfmt ht
  obtain ⟨body, hbody, hexec⟩ := exec_body i
  obtain ⟨hf, rfl⟩ := command_next_iff.mp (hexec s ▸ ht)
  obtain ⟨d, hd⟩ := hbody.withActive hi hpec hfmt
  have hrun : exec i { s with active := c } = .next { body s with active := d } :=
    (hexec _).trans (command_next_iff.mpr ⟨hf, hd.symm⟩)
  exact ⟨_, hrun, rfl, rfl, rfl, rfl, rfl⟩

/-- Settles O7: a constructed block is a `State.built`, whose copies are the power-on value. -/
theorem constructionGivesPowerOnCopies : Obligations.ConstructionGivesPowerOnCopies := by
  intro off p s h
  obtain ⟨-, rfl⟩ := construct_eq_some_iff.mp h
  have hfields : ∀ f : FieldId, f.extract (powerOnConfig.byteOf f) = if f = .resolution then 2 else 0 := by
    intro f
    cases f <;> decide
  have hword : powerOnConfig.word = 0x0040 := by decide
  have hreserved : powerOnConfig.b0 &&& 0xE4 = 0 := by decide
  have honeShot : powerOnConfig.b1 &&& 0x01 = 0 := by decide
  exact ⟨rfl, rfl, hword, hfields, hreserved, honeShot, rfl, rfl, rfl⟩

end Sys2Proof.Machine
end

section
/-!
The device seen over the bus (20_memory.md): which answers of the agent set the fault mark, and the header bytes the
CRC covers.
-/

namespace Sys2Proof.Machine

/-! ### The length contract (20_memory.md R49) -/

/-- An agent with no scripted answer keeps the length contract, whatever the free values are (log entry 3). -/
theorem length_of_unscripted_readOutcome {s : State} {n : Nat} {xs : List Byte} (hs : s.readAnswers = [])
    (h : s.readOutcome n = .bytes xs) : xs.length = n := by
  simp only [State.readOutcome, hs] at h
  split at h
  · cases h
  · cases h
    simp

/-- A command of a running block that sets the mark was given an answer of another length than it asked for: of all
ends, only a failed read can show the breach (60_exceptions.md R160). -/
theorem Effect.broken_readOutcome_of_faulted {i : Instr} {s t : State} (h : Effect i s t) (hs : s.faulted = false)
    (ht : t.faulted = true) : ∃ n xs, s.readOutcome n = .bytes xs ∧ xs.length ≠ n := by
  obtain ⟨reg, m, k, hinfo⟩ := (h.faulted_iff hs).mp ht
  cases h with
  | report q hb hset hq hr => simp [answer_faulted hq, hs] at ht
  | delivered reg n data r hi hr hn ho => exact absurd hinfo (hn _)
  | readFailed reg n e hi hr ho =>
    cases hinfo
    exact ⟨_, ho.isFault_iff.mp rfl⟩
  | _ => cases hinfo

/-! ### The header bytes (20_memory.md R35, 30_encoding.md R61, R62) -/

/-- A 7-bit address shifted left loses no bit of a byte. -/
theorem addrWriteByte_toNat (a : BusAddr) : (addrWriteByte a).toNat = 2 * a.toNat := by
  rw [addrWriteByte, BitVec.toNat_shiftLeft, BitVec.toNat_setWidth, Nat.shiftLeft_eq]
  omega

/-- The header byte of a read: the shifted address is even, so one more does not wrap. -/
theorem addrReadByte_toNat (a : BusAddr) : (addrReadByte a).toNat = 2 * a.toNat + 1 := by
  have hbound : 2 * a.toNat + 1 < 2 ^ 8 := by omega
  rw [addrReadByte, BitVec.toNat_add, addrWriteByte_toNat]
  exact Nat.mod_eq_of_lt hbound

/-! ### The statements -/

/-- Settles O10: each end of a command sets the mark exactly with an event that broke the contract, and an unscripted
answer breaks none. -/
theorem onlyABrokenAnswerFaults : Obligations.OnlyABrokenAnswerFaults := by
  intro s t h
  obtain ⟨hf, i, rest, -, heff⟩ := step_effect h
  constructor
  · obtain ⟨hh, ht⟩ | ⟨e, hh, -, -, ht⟩ := heff.history_cases hf
    · simp [hh, ht]
    · simp [hh, ht]
  · intro hunscripted
    by_contra hmark
    obtain ⟨n, xs, hout, hlen⟩ := heff.broken_readOutcome_of_faulted hf (Bool.eq_true_of_not_eq_false hmark)
    exact hlen (length_of_unscripted_readOutcome hunscripted hout)

/-- Settles O51: the header bytes are the shifted address of the offset, which R5 keeps from wrapping. -/
theorem headerBytesAreShiftedAddresses : Obligations.HeaderBytesAreShiftedAddresses := by
  intro off p s h
  obtain ⟨hoff, rfl⟩ := construct_eq_some_iff.mp h
  have haddr : (State.built off p).deviceAddress.toNat = 0x48 + off := deviceAddressOf_toNat hoff
  rw [addrReadByte_toNat, addrWriteByte_toNat, haddr]
  exact ⟨rfl, by omega, by omega⟩

end Sys2Proof.Machine
end

section
/-!
The encoding (30_encoding.md): the rows of the opcode map are apart, so the decoder takes the one row that matches; what
the encoder writes selects its own row, and a row builds only commands whose opcode is the byte it was given.
-/

namespace Sys2Proof.Laws.HasOpcodeRow

/-- What the encoder writes for a command selects the command's own row (30_encoding.md R55): the laws of the single
constructors, together. -/
theorem statement_of_instr (i : Instr) : Statement i := by
  cases i
  exacts [crc8 _, pecw _ _, pecr _ _, tenc _ _, tdec _ _ _,
    finsShdn _ _, finsCmpint _ _, finsFq _ _, finsCr _ _, finsPec _ _, finsTo _ _, finsRes _ _, finsFmt _ _,
    fextShdn _, fextCmpint _, fextFq _, fextCr _, fextPec _, fextTo _, fextRes _, fextFmt _,
    setShdn _, setCmpint _, setFq _, setCr _, setPec _, setTo _, setRes _, setFmt _,
    getpShdn, getpCmpint, getpFq, getpCr, getpPec, getpTo, getpRes, getpFmt,
    getaShdn, getaCmpint, getaFq, getaCr, getaPec, getaTo, getaRes, getaFmt,
    rdp, rda, xwr _ _, xrd _ _, commit, refresh, rdt, rdthHyst, rdthTos, wrthHyst _, wrthTos _]

end Sys2Proof.Laws.HasOpcodeRow

namespace Sys2Proof.Machine

/-! ### At most one row matches (30_encoding.md R56) -/

/-- Two rows of the opcode map fix a common bit of the opcode to different values. -/
def RowsApart (a b : OpcodeRow) : Prop := a.base &&& b.mask ≠ b.base &&& a.mask

theorem rowMatches_iff {op : Byte} {row : OpcodeRow} : rowMatches op row = true ↔ op &&& row.mask = row.base :=
  beq_iff_eq

/-- No byte matches two rows that are apart: on the bits both masks fix it would have to agree with both bases. -/
theorem RowsApart.not_both_match {a b : OpcodeRow} (h : RowsApart a b) {op : Byte} (ha : rowMatches op a = true) :
    rowMatches op b = false := by
  rw [rowMatches_iff] at ha
  by_contra hb
  rw [Bool.not_eq_false, rowMatches_iff] at hb
  exact h (by rw [← ha, ← hb, BitVec.and_assoc, BitVec.and_assoc, BitVec.and_comm a.mask])

/-- The rows of the opcode map are pairwise apart. -/
theorem opcodeRows_pairwise_apart : opcodeRows.Pairwise RowsApart := by
  unfold RowsApart
  decide

/-- Where each element that satisfies `p` excludes the later ones, `p` counts at most one. -/
theorem countP_le_one_of_pairwise {α : Type} {p : α → Bool} {l : List α}
    (h : l.Pairwise fun a b => p a = true → p b = false) : l.countP p ≤ 1 := by
  induction h with
  | nil => simp
  | @cons a l hrest _ ih =>
    cases ha : p a with
    | false => simpa [List.countP_cons, ha] using ih
    | true =>
      have hnone : l.countP p = 0 := List.countP_eq_zero.mpr fun b hb => by simp [hrest b hb ha]
      simp [ha, hnone]

/-- Settles O4: the rows are pairwise apart, so a byte that matches one matches no later one. -/
theorem atMostOneRowMatches : Obligations.AtMostOneRowMatches := fun _ =>
  countP_le_one_of_pairwise (opcodeRows_pairwise_apart.imp fun h => h.not_both_match)

/-! ### The decoder takes the row that matches -/

/-- The search for an element finds the only one there is. -/
theorem find?_eq_some_of_countP_le_one {α : Type} {p : α → Bool} {l : List α} {a : α} (h : l.countP p ≤ 1)
    (hmem : a ∈ l) (ha : p a = true) : l.find? p = some a := by
  rw [List.countP_eq_length_filter] at h
  obtain ⟨b, hb⟩ := List.length_eq_one_iff.mp
    (le_antisymm h (List.length_pos_of_mem (List.mem_filter.mpr ⟨hmem, ha⟩)))
  have hab : a = b := List.mem_singleton.mp (hb ▸ List.mem_filter.mpr ⟨hmem, ha⟩)
  rw [← List.head?_filter, hb, hab, List.head?_cons]

theorem decode_of_row {c : Command} {row : OpcodeRow} (hmem : row ∈ opcodeRows) (h : rowMatches c.op row = true) :
    decode c = .ok (row.build c.op c.ports) := by
  have hfind : opcodeRows.find? (rowMatches c.op) = some row :=
    find?_eq_some_of_countP_le_one (atMostOneRowMatches c.op) hmem h
  simp only [decode, hfind]

/-- The same, for a row given by its place in the map. -/
theorem decode_of_row_at (k : Nat) {op : Byte} {p : Ports} {row : OpcodeRow} (hrow : opcodeRows[k]? = some row)
    (h : rowMatches op row = true) : decode ⟨op, p⟩ = .ok (row.build op p) :=
  decode_of_row (List.mem_of_getElem? hrow) h

theorem decode_of_no_row {c : Command} (h : opcodeRows.any (rowMatches c.op) = false) :
    decode c = .error (.unassigned c.op) := by
  have hfind : opcodeRows.find? (rowMatches c.op) = none := by simpa using h
  simp only [decode, hfind]

/-! ### Decoding what the encoder writes (30_encoding.md R55) -/

/-- Settles O1: the encoder's byte falls in the command's own row, the decoder takes that row, and the row builds the
command from the encoder's byte and ports. -/
theorem decodeOfEncodeIsTheCommand : Obligations.DecodeOfEncodeIsTheCommand := by
  intro i hw
  obtain ⟨row, hmem, hmatch, hbuild⟩ := Laws.HasOpcodeRow.statement_of_instr i hw
  calc decode (encode i) = .ok (row.build i.opcode i.ports) := decode_of_row hmem hmatch
    _ = .ok i := by rw [hbuild]

/-! ### A row builds commands of the byte it is given (30_encoding.md R51..R53) -/

/-- A byte is what a mask fixes of it and the bits the mask leaves free. -/
theorem base_or_free {op mask base free : Byte} (h : op &&& mask = base) (hfree : mask ||| free = 0xFF) :
    base ||| (op &&& free) = op := by
  rw [← h, ← BitVec.and_or_distrib_left, hfree]
  exact BitVec.and_allOnes

/-- A row whose mask is 0xFF matches its base alone. -/
theorem eq_of_full_mask {op base : Byte} (h : op &&& 0xFF = base) : base = op := by
  rw [← h]
  exact BitVec.and_allOnes

/-- The field of a format-F opcode has the id that its low three bits name. -/
theorem ofNat_fid_fieldOfOp : ∀ op : Byte, BitVec.ofNat 8 (fieldOfOp op).fid = op &&& 0x07 := by decide

theorem fins_opcode (f : FieldId) (b : Byte) (v : Int) : (Instr.fins f b v).opcode = 0x20 ||| BitVec.ofNat 8 f.fid := by
  cases f <;> rfl

theorem fext_opcode (f : FieldId) (b : Byte) : (Instr.fext f b).opcode = 0x28 ||| BitVec.ofNat 8 f.fid := by
  cases f <;> rfl

theorem setField_opcode (f : FieldId) (v : Int) : (Instr.setField f v).opcode = 0x30 ||| BitVec.ofNat 8 f.fid := by
  cases f <;> rfl

theorem getp_opcode (f : FieldId) : (Instr.getp f).opcode = 0x38 ||| BitVec.ofNat 8 f.fid := by cases f <;> rfl

theorem geta_opcode (f : FieldId) : (Instr.geta f).opcode = 0x40 ||| BitVec.ofNat 8 f.fid := by cases f <;> rfl

/-- Format F: the row's base and the field's id are the byte again. -/
theorem base_or_fid {op base : Byte} (h : op &&& 0xF8 = base) :
    base ||| BitVec.ofNat 8 (fieldOfOp op).fid = op := by
  rw [ofNat_fid_fieldOfOp]
  exact base_or_free h rfl

/-- Format X: the row's base and the register id are the byte again. -/
theorem base_or_reg {op base : Byte} (h : op &&& 0xFC = base) : base ||| (regOfOp op &&& 0x03) = op := by
  rw [regOfOp, BitVec.and_assoc, BitVec.and_self]
  exact base_or_free h rfl

/-- A row builds only commands whose opcode is the byte it matched: by its full mask in format P, by `op[2:0]` in format
F and by `op[1:0]` in format X. -/
theorem build_opcode {row : OpcodeRow} (hmem : row ∈ opcodeRows) {op : Byte} (h : rowMatches op row = true)
    (p : Ports) : (row.build op p).opcode = op := by
  rw [rowMatches_iff] at h
  revert row
  simp only [opcodeRows, List.forall_mem_cons]
  exact ⟨eq_of_full_mask, eq_of_full_mask, eq_of_full_mask, eq_of_full_mask, eq_of_full_mask,
    fun h => (fins_opcode _ _ _).trans (base_or_fid h), fun h => (fext_opcode _ _).trans (base_or_fid h),
    fun h => (setField_opcode _ _).trans (base_or_fid h), fun h => (getp_opcode _).trans (base_or_fid h),
    fun h => (geta_opcode _).trans (base_or_fid h), eq_of_full_mask, eq_of_full_mask, base_or_reg, base_or_reg,
    eq_of_full_mask, eq_of_full_mask, eq_of_full_mask, eq_of_full_mask, eq_of_full_mask, eq_of_full_mask,
    eq_of_full_mask, List.forall_mem_nil _⟩

/-- Settles O2: the row that was taken builds a well-formed command of the presented byte, so the byte with the
encoder's ports is what the encoder writes for it, and O1 decodes that. -/
theorem decodedCommandReencodes : Obligations.DecodedCommandReencodes := by
  intro c i h
  obtain ⟨row, hmem, hmatch, rfl⟩ := exists_row_of_decode h
  have hw := wellFormed_of_decode h
  have hop : (encode (row.build c.op c.ports)).op = c.op := build_opcode hmem hmatch c.ports
  refine ⟨hw, hop, ?_⟩
  calc decode ⟨c.op, (encode (row.build c.op c.ports)).ports⟩
      = decode (encode (row.build c.op c.ports)) := congrArg (fun op => decode ⟨op, _⟩) hop.symm
    _ = .ok (row.build c.op c.ports) := decodeOfEncodeIsTheCommand _ hw

/-! ### Unassigned bytes (30_encoding.md R57, 60_exceptions.md R158) -/

/-- A running block that is presented an unassigned byte takes the command and shows the error, which is no fault. -/
theorem step_of_unassigned {s : State} {c : Command} {rest : List Command} (hf : s.faulted = false)
    (hc : s.commands = c :: rest) (hd : decode c = .error (.unassigned c.op)) :
    step s =
      .next { s with commands := rest, status := .illegalCommand, result := .info (.illegalCommand c.op) } := by
  have hfetch : fetch s = some (c, { s with commands := rest }) := by simp [fetch, hc]
  simp [step, hf, hfetch, hd, illegal, command_of_running, raise, Error.status, Error.isFault]

/-- Settles O3: the assigned bytes are those that some row of the opcode map matches, and the unassigned ones the rest;
a step on one of these ends with the error. -/
theorem unassignedOpcodesRaiseIllegalCommand : Obligations.UnassignedOpcodesRaiseIllegalCommand := by
  unfold Obligations.UnassignedOpcodesRaiseIllegalCommand
  intro unassigned assigned
  have hassigned : ∀ op : Byte, assigned op.toNat = opcodeRows.any (rowMatches op) := by decide +zetaReduce
  have hunassigned : ∀ op : Byte, unassigned op.toNat = !assigned op.toNat := by decide +zetaReduce
  have hcounts : (List.range 256).countP unassigned = 194 ∧ (List.range 256).countP assigned = 62 := by
    decide +kernel +zetaReduce
  refine ⟨hcounts, fun c => ⟨by simp [hunassigned], fun ha => ?_, fun hu => ?_⟩⟩
  · rw [hassigned, List.any_eq_true] at ha
    obtain ⟨row, hmem, hmatch⟩ := ha
    exact ⟨_, decode_of_row hmem hmatch⟩
  · rw [hunassigned, hassigned, Bool.not_eq_true'] at hu
    have hd := decode_of_no_row hu
    exact ⟨hd, fun s rest hf hc => step_of_unassigned hf hc hd⟩

/-! ### Written-out bytes and lines (30_encoding.md R55, R66, R67) -/

/-- Settles O5: each byte matches the named row of the map, and that row builds the command. -/
theorem sampleOpcodesDecode : Obligations.SampleOpcodesDecode := by
  intro p
  exact ⟨decode_of_row_at 0 rfl rfl, decode_of_row_at 3 rfl rfl, decode_of_row_at 5 rfl rfl,
    decode_of_row_at 7 rfl rfl, decode_of_row_at 8 rfl rfl, decode_of_row_at 12 rfl rfl,
    decode_of_row_at 13 rfl rfl, decode_of_row_at 20 rfl rfl⟩

/-- Settles O52: each line is run through the assembler, and the two expansions with an operand keep it. -/
theorem assemblyLinesAreTheirCommands : Obligations.AssemblyLinesAreTheirCommands :=
  ⟨by decide, by decide, by decide, by decide, by decide, by decide, by decide, by decide, fun _ => ⟨rfl, rfl⟩⟩

end Sys2Proof.Machine
end

section
/-!
The CRC engine (41_crc.md). CRC8 and PECR only compute: what such a command may change is said first. The laws of the
fold hold for every table; the statements about single-bit errors need only that the table is injective, which the
default table is because a shift step of its polynomial can be undone.
-/

namespace Sys2Proof.Machine

/-! ### A command that only computes (10_state.md R20, R21, R32) -/

/-- Of the ends of a command, only a report belongs to one that neither sets a field nor uses the bus. -/
theorem Effect.exists_report {i : Instr} {s t : State} (h : Effect i s t) (hset : i.isSetter = false)
    (hbus : i.isBus = false) : ∃ q : Except Error Result, (∀ e, q = .error e → e.isFault = false) ∧ t = answer q s := by
  have not_set : ∀ {f v}, i ≠ .setField f v := fun hi => by
    simp [(isSetter_iff i).mpr ⟨_, _, hi⟩] at hset
  have not_bus : i.isBus ≠ true := by simp [hbus]
  cases h with
  | report q hb hs hq hr => exact ⟨q, hq, rfl⟩
  | set f v hi hd => exact absurd hi not_set
  | setRejected f v hi hd => exact absurd hi not_set
  | operandRejected t hi => obtain rfl | rfl := hi <;> exact absurd rfl not_bus
  | wrote reg data hi hr ho => exact absurd hi not_bus
  | committed hi ho => subst hi; exact absurd rfl not_bus
  | writeFailed reg data hi hr ho => exact absurd hi not_bus
  | delivered reg n data r hi hr hn ho => exact absurd hi not_bus
  | refreshed b0 b1 hi ho => subst hi; exact absurd rfl not_bus
  | readFailed reg n e hi hr ho => exact absurd hi not_bus

/-! ### The fold, for every table (R69, R72) -/

@[simp] theorem crc8_nil (table : Vector Byte 256) : crc8 table [] = 0 := rfl

/-- Appending a list continues the fold. -/
theorem crc8_append (table : Vector Byte 256) (xs ys : List Byte) :
    crc8 table (xs ++ ys) = ys.foldl (crcStep table) (crc8 table xs) := List.foldl_append

theorem crc8_append_singleton (table : Vector Byte 256) (xs : List Byte) (b : Byte) :
    crc8 table (xs ++ [b]) = crcLookup table (crc8 table xs ^^^ b) := crc8_append table xs [b]

theorem crc8_singleton (table : Vector Byte 256) (b : Byte) : crc8 table [b] = crcLookup table b := by
  rw [← List.nil_append [b], crc8_append_singleton, crc8_nil]
  exact congrArg (crcLookup table) BitVec.zero_xor

/-! ### The fold, for an injective table -/

section Injective

variable {table : Vector Byte 256}

theorem crcStep_injective_acc (h : Function.Injective (crcLookup table)) (b : Byte) :
    Function.Injective fun acc => crcStep table acc b :=
  fun _ _ heq => (BitVec.xor_left_inj b).mp (h heq)

theorem crcStep_injective_byte (h : Function.Injective (crcLookup table)) (acc : Byte) :
    Function.Injective (crcStep table acc) :=
  fun _ _ heq => (BitVec.xor_right_inj acc).mp (h heq)

/-- Two accumulators that differ still differ after any bytes. -/
theorem foldl_crcStep_injective (h : Function.Injective (crcLookup table)) (xs : List Byte) :
    Function.Injective fun acc => xs.foldl (crcStep table) acc := by
  induction xs with
  | nil => exact Function.injective_id
  | cons x xs ih => exact ih.comp (crcStep_injective_acc h x)

theorem xor_twoPow_ne (b : Byte) {j : Nat} (hj : j < 8) : b ^^^ BitVec.twoPow 8 j ≠ b := by
  intro h
  have hbit := congrArg (·[j]) h
  simp at hbit

/-- A flipped bit changes the byte it stands in, so the step there; before it the accumulators agree and after it they
stay apart. -/
theorem foldl_crcStep_flipBit_ne (h : Function.Injective (crcLookup table)) {xs : List Byte} {i j : Nat}
    (hi : i < xs.length) (hj : j < 8) (acc : Byte) :
    (flipBit xs i j).foldl (crcStep table) acc ≠ xs.foldl (crcStep table) acc := by
  induction xs generalizing i acc with
  | nil => exact absurd hi (Nat.not_lt_zero i)
  | cons x xs ih =>
    cases i with
    | zero =>
      have hstep : crcStep table acc (x ^^^ BitVec.twoPow 8 j) ≠ crcStep table acc x :=
        (crcStep_injective_byte h acc).ne (xor_twoPow_ne x hj)
      exact (foldl_crcStep_injective h xs).ne hstep
    | succ i => exact ih (Nat.lt_of_succ_lt_succ hi) (crcStep table acc x)

end Injective

/-! ### The default table (R70, R73) -/

/-- One shift step of the generator polynomial 0x07, most significant bit first. -/
def crcShift (x : Byte) : Byte := if x[7] then (x <<< 1) ^^^ 0x07 else x <<< 1

/-- Undoes `crcShift`: bit 0 tells whether the polynomial was added, since a shift alone leaves it 0. -/
def crcUnshift (y : Byte) : Byte := if y[0] then ((y ^^^ 0x07) >>> 1) ||| 0x80 else y >>> 1

theorem crcUnshift_crcShift : Function.LeftInverse crcUnshift crcShift := by
  intro x
  revert x
  decide

theorem crcLookup_default (b : Byte) : crcLookup defaultCrcTable b = crcShift^[8] b := by
  revert b
  decide +kernel

theorem crcLookup_default_injective : Function.Injective (crcLookup defaultCrcTable) := by
  rw [funext crcLookup_default]
  exact crcUnshift_crcShift.injective.iterate 8

theorem crcLookup_default_zero : crcLookup defaultCrcTable 0 = 0 := rfl

/-- Only the index 0 has the entry 0. -/
theorem crcLookup_default_eq_zero_iff {b : Byte} : crcLookup defaultCrcTable b = 0 ↔ b = 0 :=
  crcLookup_default_injective.eq_iff' crcLookup_default_zero

/-! ### PECR (44_transactions.md R140, R142) -/

/-- The CRC of a frame with one more byte, which may be the CRC byte itself. -/
theorem frameCrc_append_singleton (s : State) (reg : Byte) (data : List Byte) (c : Byte) :
    frameCrc s reg (data ++ [c]) = crcLookup s.params.crc8Table (frameCrc s reg data ^^^ c) := by
  rw [frameCrc, ← List.append_assoc, crc8_append_singleton, frameCrc]

/-- With the default table, a frame ends with its CRC exactly when the CRC of the whole of it is 0. -/
theorem frameCrc_append_eq_zero_iff {s : State} (ht : s.params.crc8Table = defaultCrcTable) (reg : Byte)
    (data : List Byte) (c : Byte) : frameCrc s reg (data ++ [c]) = 0 ↔ frameCrc s reg data = c := by
  rw [frameCrc_append_singleton, ht, crcLookup_default_eq_zero_iff]
  exact BitVec.xor_eq_zero_iff

/-- The header bytes only set the accumulator the frame starts from. -/
theorem frameCrc_flipBit_ne {s : State} (ht : s.params.crc8Table = defaultCrcTable) (reg : Byte) {rx : List Byte}
    {i j : Nat} (hi : i < rx.length) (hj : j < 8) : frameCrc s reg (flipBit rx i j) ≠ frameCrc s reg rx := by
  rw [frameCrc, frameCrc, ht, crc8_append, crc8_append]
  exact foldl_crcStep_flipBit_ne crcLookup_default_injective hi hj _

theorem exec_pecr {s : State} (hf : s.faulted = false) (reg : Byte) (rx : List Byte) :
    exec (.pecr reg rx) s =
      .next (answer (if rx = [] then .error (.invalidOperand (.rx rx)) else (pecCheck s reg rx).map .bytes) s) :=
  command_of_running hf

/-- PECR compares the last byte with the CRC of the bytes before it. -/
theorem exec_pecr_append {s : State} (hf : s.faulted = false) (reg : Byte) (data : List Byte) (c : Byte) :
    exec (.pecr reg (data ++ [c])) s = .next (if frameCrc s reg data = c then finish (.bytes data) s
      else raise (.checksumMismatch reg (frameCrc s reg data) c) s) := by
  have hne : data ++ [c] ≠ [] := List.concat_ne_nil c data
  rw [exec_pecr hf, if_neg hne, pecCheck_append]
  split <;> rfl

theorem exec_pecr_nil {s : State} (hf : s.faulted = false) (reg : Byte) :
    exec (.pecr reg []) s = .next (raise (.invalidOperand (.rx [])) s) := exec_pecr hf reg []

/-- PECR accepts only a frame that ends with its CRC. -/
theorem frame_of_exec_pecr_success {s t : State} {reg : Byte} {rx : List Byte} (h : exec (.pecr reg rx) s = .next t)
    (hsuccess : t.status = .success) : ∃ data, rx = data ++ [frameCrc s reg data] := by
  have hf := (exec_effect h).1
  rcases List.eq_nil_or_concat' rx with rfl | ⟨data, c, rfl⟩
  · rw [exec_pecr_nil hf] at h
    cases h
    cases hsuccess
  · rw [exec_pecr_append hf] at h
    cases h
    split at hsuccess
    · next hc => exact ⟨data, by rw [hc]⟩
    · cases hsuccess

/-! ### The statements -/

/-- Settles O15: such a command ends with a report, which writes the ports and, raising no fault, not the mark. -/
theorem otherCommandsOnlyReport : Obligations.OtherCommandsOnlyReport := by
  intro i s t hset hbus h
  obtain ⟨q, hq, rfl⟩ := (exec_effect h).2.exists_report hset hbus
  calc answer q s
      = { s with status := (answer q s).status, result := (answer q s).result, faulted := (answer q s).faulted } :=
        answer_eq q s
    _ = { s with status := (answer q s).status, result := (answer q s).result } := by rw [answer_faulted hq]

/-- Settles O24: the default table is injective, and for such a table a flipped bit reaches the CRC. -/
theorem singleBitErrorChangesTheCrc : Obligations.SingleBitErrorChangesTheCrc :=
  fun _ _ _ hi hj => foldl_crcStep_flipBit_ne crcLookup_default_injective hi hj 0

/-- Settles O25: the CRC of an accepted frame, its CRC byte included, is 0, and that of the frame with a bit flipped is
another, so the latter does not end with its CRC. -/
theorem pecrRejectsEverySingleBitError : Obligations.PecrRejectsEverySingleBitError := by
  intro s t reg rx i j ht h hsuccess hi hj
  have hf := (exec_effect h).1
  obtain ⟨data, hrx⟩ := frame_of_exec_pecr_success h hsuccess
  have haccepted : frameCrc s reg rx = 0 := by rw [hrx, frameCrc_append_eq_zero_iff ht]
  have hlength : (flipBit rx i j).length = data.length + 1 := by simp [flipBit, hrx]
  obtain ⟨data', c', hflip, -⟩ := exists_append_of_length_succ hlength
  have hmismatch : frameCrc s reg data' ≠ c' := by
    rw [Ne, ← frameCrc_append_eq_zero_iff ht, ← hflip, ← haccepted]
    exact frameCrc_flipBit_ne ht reg hi hj
  refine ⟨frameCrc s reg data', c', ?_⟩
  rw [hflip, exec_pecr_append hf, if_neg hmismatch, raise_of_running hf rfl]
  rfl

/-- Settles O21: byte 0x01 takes the row of CRC8, whose command reports the fold; the example is run on the table. -/
theorem crc8ReturnsTheFold : Obligations.Crc8ReturnsTheFold := by
  have hrun : ∀ (s : State) (data : List Byte), s.faulted = false →
      exec (.crc8 data) s = .next { s with status := .success, result := .byte (crc8 s.params.crc8Table data) } :=
    fun s data hf => command_of_running hf
  have hexample : crc8 defaultCrcTable [0x90, 0x01, 0x00, 0x40] = 0xFA := by decide
  exact ⟨fun p => decode_of_row_at 0 rfl rfl, hrun, fun s => hrun s [],
    fun s hf ht => by rw [hrun s _ hf, ht, hexample]⟩

/-- Settles O22: the laws of the fold. -/
theorem crcLawsForEveryTable : Obligations.CrcLawsForEveryTable :=
  fun table => ⟨crc8_nil table, crc8_singleton table, crc8_append_singleton table, crc8_append table⟩

/-- Settles O23: `crcShift` is the step of the recurrence, and the 256 entries are compared with its eight rounds. -/
theorem defaultTableIsPolynomial07 : Obligations.DefaultTableIsPolynomial07 := crcLookup_default

end Sys2Proof.Machine
end

section
/-!
The temperature codec (42_temperature.md). Both directions of the round trip rest on two facts: a finite binary64 number
is fixed, its zero's sign apart, by its exact value; and a pair's magnitude is the value's in sixteenths.
-/

namespace Sys2Proof

/-! ### A finite number is fixed by its exact value (R75) -/

/-- The integers an exact magnitude is made of, compared at one scale. -/
theorem Binary64.signif_shift_of_absRat_eq {a b : Binary64} (h : a.absRat = b.absRat) (hle : a.scale ≤ b.scale) :
    a.signif = b.signif * 2 ^ (b.scale - a.scale) := by
  have hsplit : (b.scale : ℤ) - 1075 = ((b.scale - a.scale : ℕ) : ℤ) + ((a.scale : ℤ) - 1075) := by omega
  have hpos : (2 : ℚ) ^ ((a.scale : ℤ) - 1075) ≠ 0 := by positivity
  unfold Binary64.absRat at h
  rw [hsplit, zpow_add₀ (by norm_num), zpow_natCast, ← mul_assoc] at h
  exact_mod_cast mul_right_cancel₀ hpos h

/-- A number above the least scale has its hidden bit. -/
theorem Binary64.hidden_le_signif {t : Binary64} (h : 1 < t.scale) : 2 ^ 52 ≤ t.signif := by
  unfold Binary64.scale at h
  unfold Binary64.signif
  split at h <;> simp_all

/-- With a significand below `2^53`, the hidden bit fixes the scale. -/
theorem Binary64.scale_le_of_absRat_eq {a b : Binary64} (h : a.absRat = b.absRat) : b.scale ≤ a.scale := by
  by_contra! hlt
  have hshift := Binary64.signif_shift_of_absRat_eq h hlt.le
  have hone : 1 ≤ a.scale := by unfold Binary64.scale; split <;> omega
  have hhidden : 2 ^ 52 ≤ b.signif := Binary64.hidden_le_signif (by omega)
  have htwo : 2 ^ 1 ≤ 2 ^ (b.scale - a.scale) := Nat.pow_le_pow_right (by norm_num) (by omega)
  have hbig : 2 ^ 52 * 2 ^ 1 ≤ a.signif := hshift ▸ Nat.mul_le_mul hhidden htwo
  have hsmall := a.signif_lt
  omega

/-- The significand and the scale are those of one exponent and fraction. -/
theorem Binary64.expo_frac_of_signif_scale {a b : Binary64} (hs : a.signif = b.signif) (hc : a.scale = b.scale) :
    a.expo = b.expo ∧ a.frac = b.frac := by
  have ha := a.frac_lt
  have hb := b.frac_lt
  unfold Binary64.signif at hs
  unfold Binary64.scale at hc
  split at hs <;> split at hs <;> simp_all
  all_goals omega

/-- Two numbers with one sign and one exact magnitude are the same 64 bits. -/
theorem Binary64.eq_of_sign_absRat {a b : Binary64} (hs : a.sign = b.sign) (h : a.absRat = b.absRat) : a = b := by
  have hc : a.scale = b.scale :=
    le_antisymm (Binary64.scale_le_of_absRat_eq h.symm) (Binary64.scale_le_of_absRat_eq h)
  have hm : a.signif = b.signif := by simpa [hc] using Binary64.signif_shift_of_absRat_eq h hc.le
  obtain ⟨he, hf⟩ := Binary64.expo_frac_of_signif_scale hm hc
  exact BitVec.eq_of_toNat_eq (by rw [a.toNat_eq, b.toNat_eq, hs, he, hf])

theorem Binary64.abs_toRat (t : Binary64) : |t.toRat| = t.absRat := by
  unfold Binary64.toRat
  split <;> simp [t.absRat_nonneg]

/-- `T < 0` on the exact value: the sign bit is set and the number is no zero. -/
theorem Binary64.toRat_neg_iff (t : Binary64) : t.toRat < 0 ↔ t.sign = true ∧ t.absRat ≠ 0 := by
  have hpos : 0 < t.absRat ↔ t.absRat ≠ 0 := t.absRat_nonneg.lt_iff_ne'
  unfold Binary64.toRat
  cases t.sign
  · simpa using t.absRat_nonneg
  · simpa using hpos

theorem Binary64.isNaN_of_isFinite {t : Binary64} (h : t.isFinite = true) : t.isNaN = false := by
  simp_all [Binary64.isFinite, Binary64.isNaN]

/-- Finite numbers of one exact value are equal as binary64 numbers: the same bits, or both a zero (R82, R84). -/
theorem Binary64.eqv_of_toRat_eq {a b : Binary64} (ha : a.isFinite = true) (hb : b.isFinite = true)
    (h : a.toRat = b.toRat) : a.eqv b = true := by
  have habs : a.absRat = b.absRat := by rw [← a.abs_toRat, h, b.abs_toRat]
  simp only [Binary64.eqv, Binary64.isNaN_of_isFinite ha, Binary64.isNaN_of_isFinite hb, Bool.not_false,
    Bool.true_and, Bool.or_eq_true, Bool.and_eq_true, beq_iff_eq]
  by_cases h0 : a.absRat = 0
  · exact .inr ⟨a.absRat_eq_zero.mp h0, b.absRat_eq_zero.mp (habs ▸ h0)⟩
  · have hsign : a.sign = true ↔ b.sign = true := by
      have hneg : a.toRat < 0 ↔ b.toRat < 0 := by rw [h]
      simpa [Binary64.toRat_neg_iff, habs ▸ h0, h0] using hneg
    exact .inl (Binary64.eq_of_sign_absRat (Bool.eq_iff_iff.mpr hsign) habs)

end Sys2Proof

namespace Sys2Proof.Machine

/-! ### TENC (R78, R80, R83) -/

/-- TENC of an operand that is refused. -/
theorem exec_tenc_of_refused {s : State} {t : Binary64} {f : Bit} (hf : s.faulted = false)
    (hr : TencRefuses s.params.encOverflow t f) :
    exec (.tenc t f) s = .next { s with
      status := .invalidOperand, result := .info (.invalidOperand (.temperature t)) } := by
  show execTenc t f s = _
  rw [execTenc, (tempEncode_eq _ _ _).1 hr]
  exact (command_of_running hf).trans (congrArg _ (raise_of_running hf rfl))

theorem sixteenths_of_eq {t : Binary64} {k : Nat} (hk : 16 * t.absRat = k) : sixteenths t = k := by
  rw [sixteenths, hk, Nat.floor_natCast]

/-- A representable value is refused under neither policy. -/
theorem not_tencRefuses_of_representable {t : Binary64} {f : Bit} {k : Nat} (hfin : t.isFinite = true)
    (hk : 16 * t.absRat = k) (hle : k ≤ 2 ^ (15 - pOf f) - 1) (policy : EncOverflow) : ¬ TencRefuses policy t f := by
  rintro (hinf | hmax | ⟨hbig, -⟩)
  · simp [hfin] at hinf
  · have hsmall : k ≤ 4095 := hle.trans (by rcases pOf_cases f with hp | hp <;> rw [hp] <;> norm_num)
    have hq : (k : ℚ) ≤ 4095 := by exact_mod_cast hsmall
    have hlimit : (4095 : ℚ) < (2 - 1 / 2 ^ 52) * 2 ^ 1023 :=
      calc (4095 : ℚ) < (2 - 1 / 2 ^ 52) * 2 ^ 12 := by norm_num
        _ ≤ (2 - 1 / 2 ^ 52) * 2 ^ 1023 :=
          mul_le_mul_of_nonneg_left (pow_le_pow_right₀ (by norm_num) (by norm_num)) (by norm_num)
    rw [hk] at hmax
    exact absurd (hq.trans hlimit.le) (not_le.mpr hmax)
  · rw [sixteenths_of_eq hk] at hbig
    omega

/-! ### TDEC (R81) -/

theorem exec_tdec {s : State} (hf : s.faulted = false) (u l : Byte) (f : Bit) :
    exec (.tdec u l f) s = .next { s with status := .success, result := .temperature (tempDecode u l f) } :=
  command_of_running hf

/-- The decoded number is finite, with the pair's sign and the pair's magnitude in sixteenths. -/
theorem tempDecode_spec (u l : Byte) (f : Bit) :
    (tempDecode u l f).isFinite = true ∧ (tempDecode u l f).sign = u[7] ∧
      (tempDecode u l f).absRat = (pairMagnitude u l f : ℚ) / 16 := by
  have hfits : 2 ^ (15 - pOf f) ≤ 2 ^ 53 := Nat.pow_le_pow_right (by norm_num) (by omega)
  exact Binary64.ofSixteenths_spec _ _ ((pairMagnitude_lt u l f).trans_le hfits)

theorem sixteen_absRat_tempDecode (u l : Byte) (f : Bit) :
    16 * (tempDecode u l f).absRat = pairMagnitude u l f := by
  obtain ⟨-, -, habs⟩ := tempDecode_spec u l f
  rw [habs]
  ring

/-! ### Decode after encode (R84) -/

/-- What decodes to `t`'s magnitude, with the sign set exactly for a `t` below zero, has `t`'s exact value. -/
theorem toRat_tempDecode_eq {u l : Byte} {f : Bit} {t : Binary64} (hk : 16 * t.absRat = pairMagnitude u l f)
    (hsign : u[7] = true ↔ t.toRat < 0) : (tempDecode u l f).toRat = t.toRat := by
  obtain ⟨-, hs, habs⟩ := tempDecode_spec u l f
  have hmag : (tempDecode u l f).absRat = |t.toRat| := by rw [habs, ← hk, t.abs_toRat]; ring
  rw [Binary64.toRat, hs, hmag]
  by_cases hneg : t.toRat < 0
  · rw [if_pos (hsign.mpr hneg), abs_of_neg hneg, neg_neg]
  · rw [if_neg (mt hsign.mp hneg), abs_of_nonneg (not_lt.mp hneg)]

/-- The pair TENC gives for a representable value has all of its magnitude. -/
theorem pairMagnitude_tenc {t : Binary64} {f : Bit} {k : Nat} (hk : 16 * t.absRat = k)
    (hle : k ≤ 2 ^ (15 - pOf f) - 1) : pairMagnitude (tencUpper t f) (tencLower t f) f = k := by
  have hpos : 0 < 2 ^ (15 - pOf f) := by positivity
  rw [pairMagnitude_eq, tenc_pair_magnitude, sixteenths_of_eq hk, Nat.mod_eq_of_lt (by omega)]

/-! ### Encode after decode (R84) -/

theorem pairMagnitude_le (u l : Byte) (f : Bit) : pairMagnitude u l f ≤ 2 ^ (15 - pOf f) - 1 :=
  Nat.le_sub_one_of_lt (pairMagnitude_lt u l f)

/-- The magnitude's low bits are those of the lower byte, with zeros for the ignored ones. -/
theorem tencLower_tempDecode_toNat (u l : Byte) (f : Bit) :
    (tencLower (tempDecode u l f) f).toNat = l.toNat / 2 ^ pOf f * 2 ^ pOf f := by
  have hl := l.isLt
  rw [tencLower_toNat, sixteenths_of_eq (sixteen_absRat_tempDecode u l f), pairMagnitude_eq]
  rcases pOf_cases f with hp | hp <;> rw [hp] <;> omega

/-- The magnitude's high bits are those of the upper byte; the sign is lost with a magnitude of 0. -/
theorem tencUpper_tempDecode_toNat (u l : Byte) (f : Bit) :
    (tencUpper (tempDecode u l f) f).toNat =
      u.toNat % 128 + if 128 ≤ u.toNat ∧ pairMagnitude u l f ≠ 0 then 128 else 0 := by
  have hl := l.isLt
  obtain ⟨-, hs, habs⟩ := tempDecode_spec u l f
  have hmsb : u[7] = decide (2 ^ 7 ≤ u.toNat) := BitVec.msb_eq_decide u
  have hneg : (tempDecode u l f).toRat < 0 ↔ 128 ≤ u.toNat ∧ pairMagnitude u l f ≠ 0 := by
    rw [Binary64.toRat_neg_iff, hs, habs, hmsb]
    simp
  have hhigh : pairMagnitude u l f / 2 ^ (8 - pOf f) % 128 = u.toNat % 128 := by
    rw [pairMagnitude_eq]
    rcases pOf_cases f with hp | hp <;> rw [hp] <;> omega
  rw [tencUpper_toNat, sixteenths_of_eq (sixteen_absRat_tempDecode u l f), hhigh]
  simp only [hneg]

/-- A pair of magnitude 0 has no high and no low bits. -/
theorem pairMagnitude_eq_zero_iff (u l : Byte) (f : Bit) :
    pairMagnitude u l f = 0 ↔ u.toNat % 128 = 0 ∧ l.toNat / 2 ^ pOf f = 0 := by
  rw [pairMagnitude_eq, Nat.add_eq_zero_iff, Nat.mul_eq_zero]
  simp

/-- The upper byte comes back but for the negative zero's, which loses its sign. -/
theorem tencUpper_tempDecode (u l : Byte) (f : Bit) :
    tencUpper (tempDecode u l f) f = if u = 0x80 ∧ l.toNat / 2 ^ pOf f = 0 then 0 else u := by
  have hu := u.isLt
  have h80 : u = 0x80 ↔ u.toNat = 128 := BitVec.toNat_inj.symm
  apply BitVec.eq_of_toNat_eq
  simp only [tencUpper_tempDecode_toNat, ne_eq, pairMagnitude_eq_zero_iff, h80]
  generalize l.toNat / 2 ^ pOf f = low
  by_cases hzero : u.toNat = 128 ∧ low = 0
  · simp [hzero]
  · rw [if_neg hzero]
    split <;> omega

/-! ### The format is the active one (R85) -/

@[simp] theorem answer_finish (q : Except Error Result) (r : Result) (s : State) :
    answer q (finish r s) = answer q s := by cases q <;> rfl

/-- RDT does not read the ports. -/
theorem exec_rdt_finish (r : Result) (s : State) : exec .rdt (finish r s) = exec .rdt s := by
  have hread : readTemperature 0 (finish r s) = readTemperature 0 s := by
    have hcarried : readRegister 0 2 (finish r s) = ((readRegister 0 2 s).1, finish r (readRegister 0 2 s).2) := rfl
    rw [readTemperature, hcarried]
    exact answer_finish _ _ _
  show command (readTemperature 0) (finish r s) = command (readTemperature 0) s
  rw [command, command, hread, finish_faulted]

/-- SET.FMT of a value in the domain writes `pending.b1` and the ports. -/
theorem exec_setFmt_of_inDomain {s : State} {v : Int} (hf : s.faulted = false)
    (hv : FieldId.inDomain .format v = true) :
    exec (.setFmt v) s = .next (finish .nothing { s with
      pending := { s.pending with b1 := FieldId.insert .format s.pending.b1 v } }) := by
  have hset := setCommand_eq .format v s
  rw [if_pos hv] at hset
  exact (command_of_running hf).trans (congrArg _ hset)

/-- COMMIT with a write that succeeds makes `pending` the active copy. -/
theorem exec_commit_of_ok {s : State} (hf : s.faulted = false) (ho : s.writeOutcome = .ok) :
    exec .commit s =
      .next (finish .nothing { s.afterWrite 1 s.pending.image with active := s.pending }) := by
  have hbody : commitCommand s = finish .nothing { s.afterWrite 1 s.pending.image with active := s.pending } := by
    simp only [commitCommand, writeRegister_eq, ho, afterWrite_pending]
  exact (command_of_running hf).trans (congrArg _ hbody)

/-- Bit 7 of byte1 is the format bit. -/
theorem format_insert_bit7 (b : Byte) {v : Int} (hv : v = 0 ∨ v = 1) :
    (FieldId.insert .format b v)[7] = decide (v = 1) := by
  have key : ∀ b : Byte, (FieldId.insert .format b 0)[7] = false ∧ (FieldId.insert .format b 1)[7] = true := by decide
  obtain ⟨h0, h1⟩ := key b
  rcases hv with rfl | rfl
  · exact h0
  · exact h1

/-! ### The statements -/

/-- Settles O26: byte 0x10 takes the row of TENC, which raises for the operands the codec refuses. -/
theorem tencTruncatesTheExactMagnitude : Obligations.TencTruncatesTheExactMagnitude :=
  ⟨fun _ => decode_of_row_at 3 rfl rfl, fun _ _ _ hf => ⟨exec_tenc_of_refused hf, exec_tenc_of_not_refused hf⟩⟩

/-- Settles O28: byte 0x11 takes the row of TDEC, and every pair's magnitude is a binary64 number's. -/
theorem tdecDecodesTheExactValue : Obligations.TdecDecodesTheExactValue := by
  refine ⟨fun p => decode_of_row_at 4 rfl rfl, fun s u l f hf => ⟨exec_tdec hf u l f, ?_⟩⟩
  rw [← pairMagnitude_eq]
  exact tempDecode_spec u l f

/-- Settles O29: a representable value's pair has its magnitude and its sign, which fix the value; a decoded pair is
representable, so it is encoded again, bit by bit. -/
theorem codecRoundTrips : Obligations.CodecRoundTrips := by
  constructor
  · intro s t f k hf hfin hk hle
    have hpair := pairMagnitude_tenc hk hle
    have hvalue := toRat_tempDecode_eq (hk.trans (congrArg _ hpair.symm)) (tencUpper_bit7 t f)
    obtain ⟨hdec, -, -⟩ := tempDecode_spec (tencUpper t f) (tencLower t f) f
    exact ⟨tencUpper t f, tencLower t f, _,
      exec_tenc_of_not_refused hf (not_tencRefuses_of_representable hfin hk hle _), exec_tdec hf _ _ f,
      Binary64.eqv_of_toRat_eq hdec hfin hvalue⟩
  · intro s u l f hf
    obtain ⟨hdec, -, -⟩ := tempDecode_spec u l f
    have hkept := not_tencRefuses_of_representable hdec (sixteen_absRat_tempDecode u l f) (pairMagnitude_le u l f)
    have hlower : l.toNat / 2 ^ pOf f * 2 ^ pOf f =
        if u = 0x80 ∧ l.toNat / 2 ^ pOf f = 0 then 0 else l.toNat / 2 ^ pOf f * 2 ^ pOf f := by
      split
      · next h => rw [h.2, Nat.zero_mul]
      · rfl
    exact ⟨_, _, _, exec_tdec hf u l f, exec_tenc_of_not_refused hf (hkept _),
      (tencLower_tempDecode_toNat u l f).trans hlower, tencUpper_tempDecode u l f⟩

/-- Settles O49: RDT reads neither `pending` nor the ports, which are all SET.FMT writes; COMMIT makes the copy with the
format set the active one. -/
theorem formatTakesEffectAtCommit : Obligations.FormatTakesEffectAtCommit := by
  intro s s1 t v hf hv hset
  have hdomain : FieldId.inDomain .format v = true := by rcases hv with rfl | rfl <;> rfl
  rw [exec_setFmt_of_inDomain hf hdomain] at hset
  cases hset
  constructor
  · intro hrdt
    rw [exec_rdt_finish]
    exact pendingIsReadOnlyByItsReaders .rdt s t _ rfl rfl hrdt
  · intro ho
    refine ⟨_, exec_commit_of_ok hf ho, ?_⟩
    show (if (FieldId.insert .format s.pending.b1 v)[7] then 1 else 0) = BitVec.ofInt 1 v
    rw [format_insert_bit7 _ hv]
    rcases hv with rfl | rfl <;> rfl

end Sys2Proof.Machine
end

section
/-!
The configuration fields (43_config_fields.md). Insert and extract of one field are said in terms of its mask, and a
setter is then an insert into `pending`. Each command form is settled once for all eight fields, by the field's own
descriptor (R87, 10_state.md R22), from which the written-out opcodes, masks and shifts follow by evaluation.
-/

namespace Sys2Proof.Machine

/-! ### Insert and extract of a field (R90, R91) -/

theorem extract_eq (f : FieldId) (b : Byte) : f.extract b = (b &&& f.mask).toNat >>> f.shift :=
  BitVec.toNat_ushiftRight _ _

/-- The mask and the shift of a field's descriptor leave room for its largest value and no larger (10_state.md R22). -/
theorem mask_toNat_shiftRight (f : FieldId) : f.mask.toNat >>> f.shift = f.dmax := by cases f <;> rfl

theorem extract_le (f : FieldId) (b : Byte) : f.extract b ≤ f.dmax := by
  have hmask : (b &&& f.mask).toNat ≤ f.mask.toNat := by
    rw [BitVec.toNat_and]
    exact Nat.and_le_right
  rw [extract_eq, ← mask_toNat_shiftRight, Nat.shiftRight_eq_div_pow, Nat.shiftRight_eq_div_pow]
  exact Nat.div_le_div_right hmask

theorem inDomain_extract (f : FieldId) (b : Byte) : f.inDomain (f.extract b) = true :=
  (inDomain_iff f _).mpr ⟨Int.natCast_nonneg _, Int.ofNat_le.mpr (extract_le f b)⟩

/-- What an insert puts inside the mask is the value, in its place. -/
theorem insert_and_mask {f : FieldId} {v : Int} (hd : f.inDomain v = true) (b : Byte) :
    f.insert b v &&& f.mask = BitVec.ofNat 8 (v.toNat <<< f.shift) := by
  have hkept : b &&& ~~~f.mask &&& f.mask = 0 := by
    rw [BitVec.and_assoc, BitVec.not_and_self]
    exact BitVec.and_zero
  rw [FieldId.insert, BitVec.and_or_distrib_right, hkept, placed_and_mask hd]
  exact BitVec.zero_or

/-- A value of the domain comes back from its place. -/
theorem placed_shiftRight {f : FieldId} {v : Int} (hd : f.inDomain v = true) :
    ((BitVec.ofNat 8 (v.toNat <<< f.shift) >>> f.shift).toNat : Int) = v := by
  rcases inDomain_cases hd with rfl | rfl | rfl | rfl <;> cases f <;> revert hd <;> decide

theorem extract_insert_self {f : FieldId} {v : Int} (hd : f.inDomain v = true) (b : Byte) :
    (f.extract (f.insert b v) : Int) = v := by
  rw [FieldId.extract, insert_and_mask hd, placed_shiftRight hd]

theorem insert_and_not_mask {f : FieldId} {v : Int} (hd : f.inDomain v = true) (b : Byte) :
    f.insert b v &&& ~~~f.mask = b &&& ~~~f.mask :=
  insert_and_of_disjoint hd (BitVec.and_not_self _) b

/-- A later insert into the same field overrides an earlier one. -/
theorem insert_insert_self {f : FieldId} {v : Int} (hd : f.inDomain v = true) (b : Byte) (w : Int) :
    f.insert (f.insert b v) w = f.insert b w := by
  rw [FieldId.insert, insert_and_not_mask hd, FieldId.insert]

/-- What was extracted, put back in its place, is the byte's part inside the mask. -/
theorem placed_extract (f : FieldId) (b : Byte) : BitVec.ofNat 8 (f.extract b <<< f.shift) = b &&& f.mask := by
  cases f <;> revert b <;> decide

theorem insert_extract (f : FieldId) (b : Byte) : f.insert b (f.extract b) = b := by
  rw [FieldId.insert, Int.toNat_natCast, placed_extract, ← BitVec.and_or_distrib_left, BitVec.or_comm,
    BitVec.or_not_self]
  exact BitVec.and_allOnes

/-! ### Two fields of one byte -/

theorem mask_and_mask {f g : FieldId} (hne : g ≠ f) (hbyte : g.byteSel = f.byteSel) : f.mask &&& g.mask = 0 := by
  cases f <;> cases g <;> revert hne hbyte <;> decide

theorem extract_insert_of_ne {f g : FieldId} {v : Int} (hd : f.inDomain v = true) (hne : g ≠ f)
    (hbyte : g.byteSel = f.byteSel) (b : Byte) : g.extract (f.insert b v) = g.extract b := by
  rw [FieldId.extract, insert_and_of_disjoint hd (mask_and_mask hne hbyte), FieldId.extract]

theorem mask_and_not_mask {f g : FieldId} (hne : g ≠ f) (hbyte : g.byteSel = f.byteSel) :
    f.mask &&& ~~~g.mask = f.mask := by
  cases f <;> cases g <;> revert hne hbyte <;> decide

/-- A placed value stays when another field of the byte is cleared. -/
theorem placed_and_not_mask {f g : FieldId} {v : Int} (hd : f.inDomain v = true) (hne : g ≠ f)
    (hbyte : g.byteSel = f.byteSel) :
    BitVec.ofNat 8 (v.toNat <<< f.shift) &&& ~~~g.mask = BitVec.ofNat 8 (v.toNat <<< f.shift) := by
  rw [← placed_and_mask hd, BitVec.and_assoc, mask_and_not_mask hne hbyte]

theorem insert_comm {f g : FieldId} {v w : Int} (hv : f.inDomain v = true) (hw : g.inDomain w = true) (hne : g ≠ f)
    (hbyte : g.byteSel = f.byteSel) (b : Byte) : g.insert (f.insert b v) w = f.insert (g.insert b w) v := by
  simp only [FieldId.insert, BitVec.and_or_distrib_right, placed_and_not_mask hv hne hbyte,
    placed_and_not_mask hw hne.symm hbyte.symm]
  ac_rfl

/-! ### A field of a copy -/

/-- The copy with a value inserted into one field: what a setter makes of `pending` (R92). -/
def ConfigWord.withField (c : ConfigWord) (f : FieldId) (v : Int) : ConfigWord :=
  c.withByteOf f (f.insert (c.byteOf f) v)

theorem withField_of_b0 {f : FieldId} (h : f.byteSel = .b0) (c : ConfigWord) (v : Int) :
    c.withField f v = { c with b0 := f.insert c.b0 v } := by
  simp only [ConfigWord.withField, ConfigWord.withByteOf, ConfigWord.byteOf, h]

theorem withField_of_b1 {f : FieldId} (h : f.byteSel = .b1) (c : ConfigWord) (v : Int) :
    c.withField f v = { c with b1 := f.insert c.b1 v } := by
  simp only [ConfigWord.withField, ConfigWord.withByteOf, ConfigWord.byteOf, h]

theorem withField_withField_self {f : FieldId} {v : Int} (hd : f.inDomain v = true) (c : ConfigWord) (w : Int) :
    (c.withField f v).withField f w = c.withField f w := by
  cases h : f.byteSel with
  | b0 => simp only [withField_of_b0 h, insert_insert_self hd]
  | b1 => simp only [withField_of_b1 h, insert_insert_self hd]

/-- Different fields: of one byte their inserts commute, of two bytes each is in its own. -/
theorem withField_comm {f g : FieldId} {v w : Int} (hv : f.inDomain v = true) (hw : g.inDomain w = true)
    (hne : g ≠ f) (c : ConfigWord) : (c.withField f v).withField g w = (c.withField g w).withField f v := by
  cases hf : f.byteSel with
  | b0 =>
    cases hg : g.byteSel with
    | b0 => simp only [withField_of_b0 hf, withField_of_b0 hg, insert_comm hv hw hne (hg.trans hf.symm)]
    | b1 => simp only [withField_of_b0 hf, withField_of_b1 hg]
  | b1 =>
    cases hg : g.byteSel with
    | b0 => simp only [withField_of_b1 hf, withField_of_b0 hg]
    | b1 => simp only [withField_of_b1 hf, withField_of_b1 hg, insert_comm hv hw hne (hg.trans hf.symm)]

/-- What a setter makes of `active`: SET.PEC with value 1 sets bit 3 of byte1 (R117). -/
def ConfigWord.enabledBy (c : ConfigWord) (f : FieldId) (v : Int) : ConfigWord :=
  if f = .pec ∧ v = 1 then { c with b1 := c.b1 ||| 0x08 } else c

theorem enabledBy_of_ne_pec {f : FieldId} (hf : f ≠ .pec) (c : ConfigWord) (v : Int) : c.enabledBy f v = c :=
  if_neg fun h => hf h.1

theorem enabledBy_comm (c : ConfigWord) (f g : FieldId) (v w : Int) :
    (c.enabledBy f v).enabledBy g w = (c.enabledBy g w).enabledBy f v := by
  unfold ConfigWord.enabledBy
  split <;> split <;> rfl

theorem enableActivePec_active_eq (v : Int) (s : State) :
    (enableActivePec v s).active = s.active.enabledBy .pec v := by
  simp only [enableActivePec, ConfigWord.enabledBy, true_and, apply_ite State.active]

/-! ### The commands, by field -/

theorem decode_fins (f : FieldId) (p : Ports) :
    decode ⟨0x20 ||| BitVec.ofNat 8 f.fid, p⟩ = .ok (.fins f p.b p.v) := by
  cases f <;> exact decode_of_row_at 5 rfl rfl

theorem decode_fext (f : FieldId) (p : Ports) :
    decode ⟨0x28 ||| BitVec.ofNat 8 f.fid, p⟩ = .ok (.fext f p.b) := by
  cases f <;> exact decode_of_row_at 6 rfl rfl

theorem decode_setField (f : FieldId) (p : Ports) :
    decode ⟨0x30 ||| BitVec.ofNat 8 f.fid, p⟩ = .ok (.setField f p.v) := by
  cases f <;> exact decode_of_row_at 7 rfl rfl

theorem decode_getp (f : FieldId) (p : Ports) : decode ⟨0x38 ||| BitVec.ofNat 8 f.fid, p⟩ = .ok (.getp f) := by
  cases f <;> exact decode_of_row_at 8 rfl rfl

theorem decode_geta (f : FieldId) (p : Ports) : decode ⟨0x40 ||| BitVec.ofNat 8 f.fid, p⟩ = .ok (.geta f) := by
  cases f <;> exact decode_of_row_at 9 rfl rfl

theorem exec_fins {s : State} (hf : s.faulted = false) (f : FieldId) (b : Byte) (v : Int) :
    exec (.fins f b v) s = .next (finsCommand f b v s) := by
  cases f <;> exact command_of_running hf

theorem exec_fext {s : State} (hf : s.faulted = false) (f : FieldId) (b : Byte) :
    exec (.fext f b) s = .next (fextCommand f b s) := by
  cases f <;> exact command_of_running hf

theorem exec_getp {s : State} (hf : s.faulted = false) (f : FieldId) :
    exec (.getp f) s = .next (getpCommand f s) := by
  cases f <;> exact command_of_running hf

theorem exec_geta {s : State} (hf : s.faulted = false) (f : FieldId) :
    exec (.geta f) s = .next (getaCommand f s) := by
  cases f <;> exact command_of_running hf

/-- A setter is the generic one on `pending`, and for PEC also what R117 adds on `active`. -/
theorem exec_setField {s : State} (hf : s.faulted = false) (f : FieldId) (v : Int) :
    exec (.setField f v) s = .next { setCommand f v s with active := s.active.enabledBy f v } := by
  cases f with
  | pec =>
    rw [← enableActivePec_active_eq, ← setPecCommand_eq]
    exact command_of_running hf
  | _ =>
    rw [enabledBy_of_ne_pec, ← setCommand_withActive]
    · exact command_of_running hf
    · nofun

/-- The state a setter leaves that is given a value of its domain (R92, R117). -/
def State.afterSet (s : State) (f : FieldId) (v : Int) : State :=
  finish .nothing { s with pending := s.pending.withField f v, active := s.active.enabledBy f v }

/-- A second setter adds its own updates of the two copies to the first one's; the ports show success either way. -/
theorem afterSet_afterSet (s : State) (f g : FieldId) (v w : Int) :
    (s.afterSet f v).afterSet g w = finish .nothing { s with
      pending := (s.pending.withField f v).withField g w
      active := (s.active.enabledBy f v).enabledBy g w } := rfl

theorem afterSet_comm {f g : FieldId} {v w : Int} (hv : f.inDomain v = true) (hw : g.inDomain w = true) (hne : g ≠ f)
    (s : State) : (s.afterSet f v).afterSet g w = (s.afterSet g w).afterSet f v := by
  rw [afterSet_afterSet, afterSet_afterSet, withField_comm hv hw hne, enabledBy_comm]

theorem exec_setField_of_inDomain {s : State} {f : FieldId} {v : Int} (hf : s.faulted = false)
    (hd : f.inDomain v = true) : exec (.setField f v) s = .next (s.afterSet f v) := by
  rw [exec_setField hf, setCommand_eq, if_pos hd]
  rfl

/-- With a value outside the domain neither copy changes (R155): SET.PEC writes `active` only for 1, which is inside. -/
theorem exec_setField_of_not_inDomain {s : State} {f : FieldId} {v : Int} (hf : s.faulted = false)
    (hd : ¬ f.inDomain v = true) :
    exec (.setField f v) s = .next { s with
      status := .invalidFieldValue, result := .info (.invalidFieldValue f v) } := by
  have hactive : s.active.enabledBy f v = s.active := if_neg (by rintro ⟨rfl, rfl⟩; exact hd rfl)
  rw [exec_setField hf, setCommand_eq, if_neg hd, raise_of_running hf rfl, hactive]
  rfl

/-- The seven setters that touch `pending` alone, by the domain check. -/
theorem exec_setField_of_ne_pec {s : State} {f : FieldId} (hf : s.faulted = false) (hp : f ≠ .pec) (v : Int) :
    if 0 ≤ v ∧ v ≤ (f.dmax : Int) then
      exec (.setField f v) s = .next (finish .nothing { s with pending := s.pending.withField f v })
    else
      exec (.setField f v) s = .next { s with
        status := .invalidFieldValue, result := .info (.invalidFieldValue f v) } := by
  split
  · next h =>
    rw [exec_setField_of_inDomain hf ((inDomain_iff f v).mpr h), State.afterSet, enabledBy_of_ne_pec hp]
  · next h => exact exec_setField_of_not_inDomain hf (mt (inDomain_iff f v).mp h)

/-! ### The statements -/

/-- Settles O37: an insert writes the field's mask and nothing else, and masks of one byte are disjoint. -/
theorem fieldInsertExtractLaws : Obligations.FieldInsertExtractLaws := fun f b v hd =>
  ⟨extract_insert_self hd b, insert_and_not_mask hd b, fun _ hne hbyte => extract_insert_of_ne hd hne hbyte b,
    insert_insert_self hd b v, insert_extract f b, inDomain_extract f b⟩

/-- Settles O38: a setter inserts into `pending` and sets at most the PEC bit of `active`, and both updates commute. -/
theorem settersCommute : Obligations.SettersCommute := by
  intro s f g v w hf hv hw
  refine ⟨s.afterSet f v, s.afterSet g w, (s.afterSet f v).afterSet g w, exec_setField_of_inDomain hf hv,
    exec_setField_of_inDomain hf hw, exec_setField_of_inDomain hf hw, fun hne => ?_, fun heq => ?_⟩
  · rw [afterSet_comm hv hw hne.symm]
    exact exec_setField_of_inDomain hf hv
  · subst heq
    exact withField_withField_self hv s.pending w

/-- Settles O30: each FINS is the generic insert with its own field's opcode, mask, shift and largest value. -/
theorem finsInsertsItsField : Obligations.FinsInsertsItsField := by
  unfold Obligations.FinsInsertsItsField
  intro inserts
  have key : ∀ f : FieldId,
      inserts (0x20 ||| BitVec.ofNat 8 f.fid) (.fins f) f (~~~f.mask) f.shift f.dmax := by
    refine fun f => ⟨decode_fins f, fun s b v hf => ?_⟩
    rw [exec_fins hf, finsCommand_eq]
    split
    · next h => rw [if_pos ((inDomain_iff f v).mpr h)]; rfl
    · next h => rw [if_neg (mt (inDomain_iff f v).mp h), raise_of_running hf rfl]; rfl
  exact ⟨key .shutDown, key .compInt, key .faultQueue, key .conversionRate, key .pec, key .timeOut, key .resolution,
    key .format⟩

/-- Settles O31: each FEXT is the generic extract with its own field's opcode, mask and shift. -/
theorem fextExtractsItsField : Obligations.FextExtractsItsField := by
  unfold Obligations.FextExtractsItsField
  intro extracts
  have key : ∀ f : FieldId, extracts (0x28 ||| BitVec.ofNat 8 f.fid) (.fext f) f.mask f.shift f.dmax := by
    refine fun f => ⟨decode_fext f, fun s b hf => ?_⟩
    rw [exec_fext hf, ← extract_eq]
    exact ⟨rfl, extract_le f b⟩
  exact ⟨key .shutDown, key .compInt, key .faultQueue, key .conversionRate, key .pec, key .timeOut, key .resolution,
    key .format⟩

/-- Settles O32: each of the seven is the generic setter on the byte its field stands in. -/
theorem setWritesItsPendingField : Obligations.SetWritesItsPendingField := by
  unfold Obligations.SetWritesItsPendingField
  intro sets0 sets1
  have key0 : ∀ f : FieldId, f.byteSel = .b0 → f ≠ .pec →
      sets0 (0x30 ||| BitVec.ofNat 8 f.fid) (.setField f) f (~~~f.mask) f.shift f.dmax := by
    refine fun f hbyte hp => ⟨decode_setField f, fun s v hf => ?_⟩
    have hset := exec_setField_of_ne_pec hf hp v
    rwa [withField_of_b0 hbyte] at hset
  have key1 : ∀ f : FieldId, f.byteSel = .b1 → f ≠ .pec →
      sets1 (0x30 ||| BitVec.ofNat 8 f.fid) (.setField f) f (~~~f.mask) f.shift f.dmax := by
    refine fun f hbyte hp => ⟨decode_setField f, fun s v hf => ?_⟩
    have hset := exec_setField_of_ne_pec hf hp v
    rwa [withField_of_b1 hbyte] at hset
  exact ⟨key0 .shutDown rfl nofun, key0 .compInt rfl nofun, key0 .faultQueue rfl nofun,
    key1 .conversionRate rfl nofun, key1 .timeOut rfl nofun, key1 .resolution rfl nofun, key1 .format rfl nofun⟩

/-- Settles O33: SET.PEC is the setter of bit 3 of byte1, and its values are 0 and 1. -/
theorem setPecEnablesBothCopies : Obligations.SetPecEnablesBothCopies := by
  refine ⟨fun p => decode_setField .pec p, fun s hf => ⟨?_, ?_, fun v h0 h1 => ?_⟩⟩
  · exact exec_setField_of_inDomain (f := .pec) hf rfl
  · have hclear : FieldId.insert .pec s.pending.b1 0 = s.pending.b1 &&& 0xF7 := BitVec.or_zero
    have hset := exec_setField_of_inDomain (f := .pec) (v := 0) hf rfl
    rw [State.afterSet, withField_of_b1 rfl, hclear] at hset
    exact hset
  · refine exec_setField_of_not_inDomain (f := .pec) hf fun hd => ?_
    obtain ⟨hlow, hhigh⟩ := (inDomain_iff .pec v).mp hd
    have hmax : FieldId.dmax .pec = 1 := rfl
    omega

/-- Settles O34: each GETP is the generic extract from its field's byte of `pending`. -/
theorem getpReadsPending : Obligations.GetpReadsPending := by
  intro s hf gives
  have key : ∀ f : FieldId,
      gives (0x38 ||| BitVec.ofNat 8 f.fid) (.getp f) ((s.pending.byteOf f &&& f.mask).toNat >>> f.shift) := by
    refine fun f => ⟨decode_getp f, ?_⟩
    rw [exec_getp hf, ← extract_eq]
    rfl
  exact ⟨key .shutDown, key .compInt, key .faultQueue, key .conversionRate, key .pec, key .timeOut, key .resolution,
    key .format⟩

/-- Settles O35: each GETA is the generic extract from its field's byte of `active`. -/
theorem getaReadsActive : Obligations.GetaReadsActive := by
  intro s hf gives
  have key : ∀ f : FieldId,
      gives (0x40 ||| BitVec.ofNat 8 f.fid) (.geta f) ((s.active.byteOf f &&& f.mask).toNat >>> f.shift) := by
    refine fun f => ⟨decode_geta f, ?_⟩
    rw [exec_geta hf, ← extract_eq]
    rfl
  exact ⟨key .shutDown, key .compInt, key .faultQueue, key .conversionRate, key .pec, key .timeOut, key .resolution,
    key .format⟩

/-- Settles O36: bytes 0x48 and 0x49 take the rows of RDP and RDA, whose meanings show a copy as it stands. -/
theorem wholeCopyReads : Obligations.WholeCopyReads :=
  ⟨fun _ => ⟨decode_of_row_at 10 rfl rfl, decode_of_row_at 11 rfl rfl⟩,
    fun _ hf => ⟨command_of_running hf, command_of_running hf⟩⟩

end Sys2Proof.Machine
end

section
/-!
The framing commands and the register transactions (44_transactions.md). What a register write and a register read do is
said once for each of their ends, on top of `afterWrite`, `afterRead` and `ReadEnds`; each command on the bus is one of
the two and what it makes of the end.
-/

namespace Sys2Proof.Machine

/-! ### The opcodes of XWR and XRD (30_encoding.md R53) -/

/-- A register id of the map takes the two free bits of a format-X opcode. -/
theorem base_add_reg {base reg : Byte} (hb : base = 0x50 ∨ base = 0x54) (h : reg ≤ 3) :
    base + reg = base ||| (reg &&& 0x03) := by
  rcases hb with rfl | rfl <;> revert reg <;> decide

theorem base_add_reg_bits {base reg : Byte} (hb : base = 0x50 ∨ base = 0x54) (h : reg ≤ 3) :
    (base + reg) &&& 0xFC = base ∧ regOfOp (base + reg) = reg := by
  rw [base_add_reg hb h]
  exact Laws.HasOpcodeRow.reg_bits base reg h hb

theorem decode_xwr {reg : Byte} (h : reg ≤ 3) (p : Ports) : decode ⟨0x50 + reg, p⟩ = .ok (.xwr reg p.data) := by
  obtain ⟨hbase, hreg⟩ := base_add_reg_bits (.inl rfl) h
  have hdecode : decode ⟨0x50 + reg, p⟩ = .ok (.xwr (regOfOp (0x50 + reg)) p.data) :=
    decode_of_row_at 12 rfl (rowMatches_iff.mpr hbase)
  rwa [hreg] at hdecode

theorem decode_xrd {reg : Byte} (h : reg ≤ 3) (p : Ports) : decode ⟨0x54 + reg, p⟩ = .ok (.xrd reg p.n) := by
  obtain ⟨hbase, hreg⟩ := base_add_reg_bits (.inr rfl) h
  have hdecode : decode ⟨0x54 + reg, p⟩ = .ok (.xrd (regOfOp (0x54 + reg)) p.n) :=
    decode_of_row_at 13 rfl (rowMatches_iff.mpr hbase)
  rwa [hreg] at hdecode

/-! ### Register reads (R144) -/

/-- An error of a running block sets the mark exactly if it is a fault (10_state.md R33). -/
theorem raise_eq_of_running {s : State} (hf : s.faulted = false) (e : Error) :
    raise e s = { s with status := e.status, result := .info e, faulted := e.isFault } := by
  rw [raise, hf, Bool.false_or]

/-- Whatever the agent answers, a read has one of the ends of R144, and no other. -/
theorem existsUnique_readEnds (s : State) (reg : Byte) (n : Nat) : ∃! r, ReadEnds s reg n r := by
  simp only [← checkAnswer_iff]
  exact existsUnique_eq'

theorem readRegister_of_readEnds {s : State} {reg : Byte} {n : Nat} {r : Except Error (List Byte)}
    (h : ReadEnds s reg n r) : readRegister reg n s = (r, s.afterRead reg n) := by
  rw [readRegister_eq, (checkAnswer_iff s reg n r).mpr h]

/-- A command that makes a result of the data it reads raises the error of the read instead, if there is one. -/
theorem answer_read_of_error {s : State} {reg : Byte} {n : Nat} {e : Error} (hf : s.faulted = false)
    (h : ReadEnds s reg n (.error e)) (g : List Byte → Result) :
    answer ((readRegister reg n s).1.map g) (readRegister reg n s).2 =
      { s.afterRead reg n with status := e.status, result := .info e, faulted := e.isFault } := by
  rw [readRegister_of_readEnds h]
  exact raise_eq_of_running (s := s.afterRead reg n) hf e

theorem answer_read_of_ok {s : State} {reg : Byte} {n : Nat} {data : List Byte} (h : ReadEnds s reg n (.ok data))
    (g : List Byte → Result) :
    answer ((readRegister reg n s).1.map g) (readRegister reg n s).2 = finish (g data) (s.afterRead reg n) := by
  rw [readRegister_of_readEnds h]
  rfl

/-- XRD answers the state that the end of its read calls for. -/
theorem exec_xrd_of_readEnds {s : State} {reg : Byte} {n : Nat} {r : Except Error (List Byte)}
    (hf : s.faulted = false) (h : ReadEnds s reg n r) :
    exec (.xrd reg n) s = .next (s.afterReadEnd reg n r) := by
  have hbody : readCommand reg n s = s.afterReadEnd reg n r := by
    cases r with
    | ok data => exact answer_read_of_ok h _
    | error e => exact answer_read_of_error hf h _
  exact (command_of_running hf).trans (congrArg _ hbody)

/-- REFRESH takes the two bytes of register 1 as its active copy. -/
theorem refreshCommand_of_ok {s : State} {b0 b1 : Byte} (h : ReadEnds s 1 2 (.ok [b0, b1])) :
    refreshCommand s = finish .nothing { s.afterRead 1 2 with active := { b0 := b0, b1 := b1 } } := by
  rw [refreshCommand, readRegister_of_readEnds h]
  rfl

theorem refreshCommand_of_error {s : State} {e : Error} (hf : s.faulted = false) (h : ReadEnds s 1 2 (.error e)) :
    refreshCommand s =
      { s.afterRead 1 2 with status := e.status, result := .info e, faulted := e.isFault } := by
  rw [refreshCommand, readRegister_of_readEnds h]
  exact raise_eq_of_running (s := s.afterRead 1 2) hf e

/-- A temperature read decodes the two bytes, the first as the upper one, with the active format. -/
theorem readTemperature_of_ok {s : State} {reg u l : Byte} (h : ReadEnds s reg 2 (.ok [u, l])) :
    readTemperature reg s = finish (.temperature (tempDecode u l (formatOf s))) (s.afterRead reg 2) := by
  rw [← activeFormat_eq]
  exact answer_read_of_ok h _

/-! ### Register writes (R143) -/

/-- A register write that succeeds shows success and nothing. -/
theorem writeCommand_of_ok {s : State} (ho : s.writeOutcome = .ok) (reg : Byte) (data : List Byte) :
    writeCommand reg data s = { s.afterWrite reg data with status := .success, result := .nothing } := by
  simp only [writeCommand, writeRegister_eq, ho]
  rfl

/-- A register write that fails shows TransportError, which is no fault. -/
theorem writeCommand_of_ioError {s : State} (hf : s.faulted = false) (ho : s.writeOutcome = .ioError) (reg : Byte)
    (data : List Byte) :
    writeCommand reg data s = { s.afterWrite reg data with
      status := .transportError, result := .info (.transportError reg) } := by
  simp only [writeCommand, writeRegister_eq, ho]
  exact raise_of_running hf rfl

/-- COMMIT with a write that fails ends as that write does. -/
theorem commitCommand_of_ioError {s : State} (ho : s.writeOutcome = .ioError) :
    commitCommand s = writeCommand 1 s.pending.image s := by
  simp only [commitCommand, writeCommand, writeRegister_eq, ho]
  rfl

/-- A threshold write of an operand that TENC refuses performs no transaction. -/
theorem writeTemperature_of_refused {s : State} {t : Binary64} (hf : s.faulted = false)
    (hr : TencRefuses s.params.encOverflow t (formatOf s)) (reg : Byte) :
    writeTemperature reg t s = { s with
      status := .invalidOperand, result := .info (.invalidOperand (.temperature t)) } := by
  rw [writeTemperature, activeFormat_eq, (tempEncode_eq _ _ _).1 hr]
  exact raise_of_running hf rfl

/-- Otherwise it is a register write of TENC's pair, upper byte first. -/
theorem writeTemperature_of_not_refused {s : State} {t : Binary64}
    (hr : ¬ TencRefuses s.params.encOverflow t (formatOf s)) (reg : Byte) :
    writeTemperature reg t s = writeCommand reg [tencUpper t (formatOf s), tencLower t (formatOf s)] s := by
  rw [writeTemperature, activeFormat_eq, (tempEncode_eq _ _ _).2 hr]

/-! ### The PEC transition (R138, R153) -/

theorem insert_pec_one (b : Byte) : FieldId.insert .pec b 1 = b ||| 0x08 := by
  revert b
  decide

theorem insert_pec_zero (b : Byte) : FieldId.insert .pec b 0 = b &&& 0xF7 := BitVec.or_zero

theorem or_pec_bit3 (b : Byte) : (b ||| 0x08)[3] = true := by
  revert b
  decide

theorem and_not_pec_bit3 (b : Byte) : (b &&& 0xF7)[3] = false := by
  revert b
  decide

/-- A COMMIT right after SET.PEC records the framed image of the new `pending` if the setter left PEC on in `active`,
and makes its PEC bit the active one. -/
theorem exists_commit_after_setPec {s : State} {v : Int} (hf : s.faulted = false) (ho : s.writeOutcome = .ok)
    (hpec : (s.active.enabledBy .pec v).b1[3] = true) :
    ∃ t, exec .commit (s.afterSet .pec v) = .next t ∧ t.active.b1 = FieldId.insert .pec s.pending.b1 v ∧
      t.history = s.history ++ [.write s.deviceAddress 1 ([s.pending.b0, FieldId.insert .pec s.pending.b1 v] ++
        [crc8 s.params.crc8Table
          [addrWriteByte s.deviceAddress, 1, s.pending.b0, FieldId.insert .pec s.pending.b1 v]]) .ok] := by
  have hwire : ∀ data, wireData (s.afterSet .pec v) 1 data =
      data ++ [crc8 s.params.crc8Table ([addrWriteByte s.deviceAddress, 1] ++ data)] := fun _ => if_pos hpec
  have hout : (s.afterSet .pec v).writeOutcome = .ok := ho
  refine ⟨_, exec_commit_of_ok hf hout, rfl, ?_⟩
  rw [finish_history, afterWrite_history, hwire, hout]
  rfl

/-! ### The statements -/

/-- Settles O42: the function that judges an answer agrees with the five ends, so there is one, and XRD ends with it. -/
theorem everyReadEndsOneWay : Obligations.EveryReadEndsOneWay := by
  intro s reg n hf
  obtain ⟨r, hr, hunique⟩ := existsUnique_readEnds s reg n
  exact ⟨r, hr, hunique, exec_xrd_of_readEnds hf hr⟩

/-- Settles O43: bytes 0x54 to 0x57 take the row of XRD, which ends as its read does. -/
theorem xrdReadsTheRegister : Obligations.XrdReadsTheRegister :=
  ⟨fun _ p h => decode_xrd h p, fun _ _ _ hf =>
    ⟨fun _ => exec_xrd_of_readEnds hf, fun _ => exec_xrd_of_readEnds hf⟩⟩

/-- Settles O45: byte 0x61 takes the row of REFRESH, which writes `active` only at an end with data. -/
theorem refreshLoadsActive : Obligations.RefreshLoadsActive := by
  refine ⟨fun p => decode_of_row_at 15 rfl rfl, fun s hf => ⟨fun b0 b1 h => ?_, fun e h => ?_⟩⟩
  · exact (command_of_running hf).trans (congrArg _ (refreshCommand_of_ok h))
  · exact (command_of_running hf).trans (congrArg _ (refreshCommand_of_error hf h))

/-- Settles O46: the three commands are the temperature read of their own register. -/
theorem temperatureRegistersDecodeWithTheActiveFormat : Obligations.TemperatureRegistersDecodeWithTheActiveFormat := by
  unfold Obligations.TemperatureRegistersDecodeWithTheActiveFormat
  intro reads
  have key : ∀ {op i reg}, (∀ p, decode ⟨op, p⟩ = .ok i) → (∀ s, exec i s = command (readTemperature reg) s) →
      reads op i reg := by
    refine fun hdecode hexec => ⟨hdecode, fun s hf => ⟨fun u l h => ?_, fun e h => ?_⟩⟩
    · rw [hexec, command_of_running hf, readTemperature_of_ok h]
      rfl
    · rw [hexec, command_of_running hf, readTemperature, answer_read_of_error hf h]
  exact ⟨key (fun _ => decode_of_row_at 16 rfl rfl) fun _ => rfl,
    key (fun _ => decode_of_row_at 17 rfl rfl) fun _ => rfl, key (fun _ => decode_of_row_at 18 rfl rfl) fun _ => rfl⟩

/-- Settles O47: the two commands are the temperature write of their own register. -/
theorem thresholdWritesEncodeWithTheActiveFormat : Obligations.ThresholdWritesEncodeWithTheActiveFormat := by
  unfold Obligations.ThresholdWritesEncodeWithTheActiveFormat
  intro writes
  have key : ∀ {op mk reg}, (∀ p, decode ⟨op, p⟩ = .ok (mk p.t)) →
      (∀ t s, exec (mk t) s = command (writeTemperature reg t) s) → writes op mk reg := by
    refine fun hdecode hexec => ⟨hdecode, fun s t hf => ⟨fun hr => ?_, fun hr => ⟨fun ho => ?_, fun ho => ?_⟩⟩⟩
    · rw [hexec, command_of_running hf, writeTemperature_of_refused hf hr]
    · rw [hexec, command_of_running hf, writeTemperature_of_not_refused hr, writeCommand_of_ok ho]
    · rw [hexec, command_of_running hf, writeTemperature_of_not_refused hr, writeCommand_of_ioError hf ho]
  exact ⟨key (fun _ => decode_of_row_at 19 rfl rfl) fun _ _ => rfl,
    key (fun _ => decode_of_row_at 20 rfl rfl) fun _ _ => rfl⟩

/-- Settles O48: in both directions the active PEC bit is 1 when COMMIT frames its write: SET.PEC 1 sets it at once, and
SET.PEC 0 leaves it. -/
theorem pecTransitionFramesTheCommit : Obligations.PecTransitionFramesTheCommit := by
  intro s hf ho
  refine ⟨?_, fun hpec => ?_⟩
  · obtain ⟨t, hcommit, hactive, hhistory⟩ := exists_commit_after_setPec (v := 1) hf ho (or_pec_bit3 s.active.b1)
    rw [insert_pec_one] at hactive hhistory
    exact ⟨_, t, exec_setField_of_inDomain (f := .pec) hf rfl, hcommit, hactive ▸ or_pec_bit3 _, hhistory⟩
  · obtain ⟨t, hcommit, hactive, hhistory⟩ := exists_commit_after_setPec (v := 0) hf ho hpec
    rw [insert_pec_zero] at hactive hhistory
    exact ⟨_, t, exec_setField_of_inDomain (f := .pec) hf rfl, rfl, hcommit, hactive ▸ and_not_pec_bit3 _, hhistory⟩

/-- Settles O39: byte 0x08 takes the row of PECW, whose meaning shows the frame. -/
theorem pecwReturnsTheWriteFrame : Obligations.PecwReturnsTheWriteFrame :=
  ⟨fun _ => decode_of_row_at 1 rfl rfl, fun _ _ _ hf => command_of_running hf⟩

/-- Settles O40: byte 0x09 takes the row of PECR; its errors are no faults, so they write the ports alone. -/
theorem pecrChecksTheReadFrame : Obligations.PecrChecksTheReadFrame := by
  refine ⟨fun p => decode_of_row_at 2 rfl rfl, fun s reg hf => ⟨?_, fun data received => ?_⟩⟩
  · rw [exec_pecr_nil hf, raise_of_running hf rfl]
    rfl
  · show if frameCrc s reg data = received then _ else _
    rw [exec_pecr_append hf]
    split
    · rfl
    · exact congrArg _ (raise_of_running hf rfl)

/-- Settles O41: bytes 0x50 to 0x53 take the row of XWR, which ends as its write does. -/
theorem xwrWritesTheRegister : Obligations.XwrWritesTheRegister := by
  refine ⟨fun reg p h => decode_xwr h p, fun s reg data hf => ⟨fun ho => ?_, fun ho => ?_⟩⟩
  · exact (command_of_running hf).trans (congrArg _ (writeCommand_of_ok ho reg data))
  · exact (command_of_running hf).trans (congrArg _ (writeCommand_of_ioError hf ho reg data))

/-- Settles O44: byte 0x60 takes the row of COMMIT, which copies `pending` only after a write that succeeded. -/
theorem commitWritesThenCopies : Obligations.CommitWritesThenCopies := by
  refine ⟨fun p => decode_of_row_at 14 rfl rfl, fun s hf => ⟨exec_commit_of_ok hf, fun ho => ?_⟩⟩
  exact (command_of_running hf).trans
    (congrArg _ ((commitCommand_of_ioError ho).trans (writeCommand_of_ioError hf ho 1 s.pending.image)))

end Sys2Proof.Machine
end

section
/-!
The STATUS codes of the error kinds (60_exceptions.md R154).
-/

namespace Sys2Proof.Machine

/-- Settles O50: a kind's STATUS is a constructor without the info, so each row of R154's table is an equation of
`Error.status` followed by one of `Status.code`. -/
theorem statusCodesAreNumbered : Obligations.StatusCodesAreNumbered :=
  ⟨rfl, fun _ _ => rfl, fun _ _ _ => rfl, fun _ => rfl, fun _ => rfl, fun _ => rfl, fun _ _ _ => rfl⟩

end Sys2Proof.Machine
end
